-- ==== Sys2Proof/Word.lean ====
section
/-! DEFINITION. The data words of LW1-SCE: ring values, character words, command words, classified
characters, the 32-entry tables, and the error names of 60_exceptions.md R281. -/

namespace Sys2Proof

/-- A ring value `0..31` (00_scope.md R12, R18); its arithmetic wraps modulo 32. -/
abbrev RingVal := BitVec 5

/-- A character word, `CHAR_W` = 16 bits (R7, R18). -/
abbrev CharWord := BitVec 16

/-- A command word, `CMD_W` = 40 bits (R7, R91). -/
abbrev CmdWord := BitVec 40

/-- A text is a finite sequence of character words, first character first (R16). -/
abbrev Text := List CharWord

/-- A classified character `{m, v}`: what `classify` answers (R14) and what an entry of `KEY` holds (R28). -/
structure KeyEntry where
  m : Bool
  v : RingVal
  deriving DecidableEq, Repr

/-- A table of 32 ring values: the shape of `KA` (R29) and of `TT` (R30). -/
abbrev Table := Vector RingVal 32

/-- The four character words of the block buffer `BLK` (R31). -/
abbrev Block := Vector CharWord 4

/-- All ring values `0, 1, ..., 31` in ring order. -/
def ringValues : List RingVal := (List.range 32).map (BitVec.ofNat 5)

/-- The errors of 60_exceptions.md R281 (code 0, "no error", is not one of them). -/
inductive Err where
  | illop | keylen | blklen | noka | nott | empty | keyovf | keysym | fatal
  deriving DecidableEq, Repr

end Sys2Proof
end

