-- ==== Sys2Proof/Syntax.lean ====
section
/-! DEFINITION. The 30 commands of 30_encoding.md R95, one constructor per row of opcode_table.json, with
the operands R94 gives each: `ch` is a 16-bit character word, `v5` a 5-bit ring value or index, `n2` a
2-bit register number. An operand field that a command does not use is no argument (R97). -/

namespace Sys2Proof

/-- A command of the engine. -/
inductive Instr where
  -- system (45_system.md)
  | nop
  | sreset
  | rdcr (n : BitVec 2)
  | clre
  -- RING (40_ring.md)
  | getc (v : RingVal)
  | getv (ch : CharWord)
  | isv (ch : CharWord)
  | add (c1 c2 : CharWord)
  | sub (c1 c2 : CharWord)
  -- key (41_key.md)
  | kclr
  | kpush (ch : CharWord)
  | setsh (v : RingVal)
  -- KAP (42_keyed_alphabet_mono.md)
  | kabuild
  | kard (j : RingVal)
  | menc (ch : CharWord)
  | mdec (ch : CharWord)
  -- PTE (43_poly.md)
  | tbuild
  | trd (j : RingVal)
  | tshift (target : CharWord) (bias : RingVal)
  | penc (ch : CharWord)
  | pdec (ch : CharWord)
  -- SBU (44_sblock.md)
  | sbx (v : RingVal)
  | sbxi (w : RingVal)
  | bclr
  | bpush (ch : CharWord)
  | bpop
  | sbapp
  | sbinv
  | sbkapp
  | sbkinv
  deriving DecidableEq, Repr

end Sys2Proof
end

