-- ==== Sys2Proof/WellFormed.lean ====
section
/-! DEFINITION. Well-formedness. Every operand of `Instr` has exactly the width R94 uses of its field, so a
command carries its own well-formedness and has nothing left to check; what can be ill-formed is a WORD: an
unlisted opcode (30_encoding.md R96) or a one in a bit the command ignores (R97, "A host should send zeros
there"). -/

namespace Sys2Proof

/-- Well-formedness of a command: its operands are within their fields (R94), which their types say. -/
def Instr.wellFormed : Instr → Bool
  | .nop | .sreset | .clre | .kclr | .kabuild | .tbuild | .bclr | .bpop => true
  | .sbapp | .sbinv | .sbkapp | .sbkinv => true
  | .rdcr n => decide (n.toNat < 4)
  | .getc v | .setsh v | .kard v | .trd v | .sbx v | .sbxi v => decide (v.toNat < 32)
  | .getv c | .isv c | .kpush c | .menc c | .mdec c | .penc c | .pdec c | .bpush c =>
      decide (c.toNat < 2 ^ 16)
  | .add c1 c2 | .sub c1 c2 => decide (c1.toNat < 2 ^ 16) && decide (c2.toNat < 2 ^ 16)
  | .tshift c v => decide (c.toNat < 2 ^ 16) && decide (v.toNat < 32)

/-- How a command uses one operand field (R94). -/
inductive OperandUse where
  | unused | n2 | v5 | ch
  deriving DecidableEq, Repr

/-- The field's bits that the use reads (R94). -/
def OperandUse.mask : OperandUse → BitVec 16
  | .unused => 0x0000#16
  | .n2 => 0x0003#16
  | .v5 => 0x001F#16
  | .ch => 0xFFFF#16

/-- The columns `a` and `b` of the opcode map (R95), by opcode; `none` for an opcode it does not list. -/
def operandUses (op : BitVec 8) : Option (OperandUse × OperandUse) :=
  match op.toNat with
  | 0x00 => some (.unused, .unused)
  | 0x01 => some (.unused, .unused)
  | 0x02 => some (.n2, .unused)
  | 0x03 => some (.unused, .unused)
  | 0x10 => some (.v5, .unused)
  | 0x11 => some (.ch, .unused)
  | 0x12 => some (.ch, .unused)
  | 0x13 => some (.ch, .ch)
  | 0x14 => some (.ch, .ch)
  | 0x20 => some (.unused, .unused)
  | 0x21 => some (.ch, .unused)
  | 0x22 => some (.v5, .unused)
  | 0x30 => some (.unused, .unused)
  | 0x31 => some (.v5, .unused)
  | 0x32 => some (.ch, .unused)
  | 0x33 => some (.ch, .unused)
  | 0x40 => some (.unused, .unused)
  | 0x41 => some (.v5, .unused)
  | 0x42 => some (.ch, .v5)
  | 0x43 => some (.ch, .unused)
  | 0x44 => some (.ch, .unused)
  | 0x50 => some (.v5, .unused)
  | 0x51 => some (.v5, .unused)
  | 0x52 => some (.unused, .unused)
  | 0x53 => some (.ch, .unused)
  | 0x54 => some (.unused, .unused)
  | 0x55 => some (.unused, .unused)
  | 0x56 => some (.unused, .unused)
  | 0x57 => some (.unused, .unused)
  | 0x58 => some (.unused, .unused)
  | _ => none

/-- A word as a host should send it: a listed opcode (R95) and zeros in every bit the command ignores (R97). -/
def wordWellFormed (w : CmdWord) : Bool :=
  match operandUses (w.extractLsb' 32 8) with
  | none => false
  | some (ua, ub) =>
      w.extractLsb' 0 16 &&& ~~~ ua.mask == 0#16 && w.extractLsb' 16 16 &&& ~~~ ub.mask == 0#16

end Sys2Proof
end

