-- ==== Sys2Proof/Decode.lean ====
section
/-! DEFINITION. The one command format (30_encoding.md R91), the decoder (total; `none` is an illegal word,
R96), the encoder, and the assembly notation of R100. -/

namespace Sys2Proof

/-- Bits 39:32 of a command word (R91). -/
def opField (w : CmdWord) : BitVec 8 := w.extractLsb' 32 8

/-- Bits 31:16, the second operand (R91). -/
def bField (w : CmdWord) : BitVec 16 := w.extractLsb' 16 16

/-- Bits 15:0, the first operand (R91). -/
def aField (w : CmdWord) : BitVec 16 := w.extractLsb' 0 16

/-- The operand form `v5` (R94): bits 4:0 of the field, the rest ignored. -/
def v5 (f : BitVec 16) : RingVal := f.extractLsb' 0 5

/-- The operand form `n2` (R94): bits 1:0 of the field, the rest ignored. -/
def n2 (f : BitVec 16) : BitVec 2 := f.extractLsb' 0 2

/-- The command that opcode `op` with operand fields `a` and `b` stands for (R95); `none` for the 226
opcodes R95 does not list (R96). Unused fields are ignored (R97). -/
def decodeFields (op : BitVec 8) (a b : BitVec 16) : Option Instr :=
  match op.toNat with
  | 0x00 => some .nop
  | 0x01 => some .sreset
  | 0x02 => some (.rdcr (n2 a))
  | 0x03 => some .clre
  | 0x10 => some (.getc (v5 a))
  | 0x11 => some (.getv a)
  | 0x12 => some (.isv a)
  | 0x13 => some (.add a b)
  | 0x14 => some (.sub a b)
  | 0x20 => some .kclr
  | 0x21 => some (.kpush a)
  | 0x22 => some (.setsh (v5 a))
  | 0x30 => some .kabuild
  | 0x31 => some (.kard (v5 a))
  | 0x32 => some (.menc a)
  | 0x33 => some (.mdec a)
  | 0x40 => some .tbuild
  | 0x41 => some (.trd (v5 a))
  | 0x42 => some (.tshift a (v5 b))
  | 0x43 => some (.penc a)
  | 0x44 => some (.pdec a)
  | 0x50 => some (.sbx (v5 a))
  | 0x51 => some (.sbxi (v5 a))
  | 0x52 => some .bclr
  | 0x53 => some (.bpush a)
  | 0x54 => some .bpop
  | 0x55 => some .sbapp
  | 0x56 => some .sbinv
  | 0x57 => some .sbkapp
  | 0x58 => some .sbkinv
  | _ => none

/-- The decoder: total on every 40-bit word (R96, R98); `none` is an illegal command, which the engine
answers with E_ILLOP. -/
def decode (w : CmdWord) : Option Instr := decodeFields (opField w) (aField w) (bField w)

/-- The opcode of a command (R95). -/
def Instr.opcode : Instr → BitVec 8
  | .nop => 0x00
  | .sreset => 0x01
  | .rdcr _ => 0x02
  | .clre => 0x03
  | .getc _ => 0x10
  | .getv _ => 0x11
  | .isv _ => 0x12
  | .add _ _ => 0x13
  | .sub _ _ => 0x14
  | .kclr => 0x20
  | .kpush _ => 0x21
  | .setsh _ => 0x22
  | .kabuild => 0x30
  | .kard _ => 0x31
  | .menc _ => 0x32
  | .mdec _ => 0x33
  | .tbuild => 0x40
  | .trd _ => 0x41
  | .tshift _ _ => 0x42
  | .penc _ => 0x43
  | .pdec _ => 0x44
  | .sbx _ => 0x50
  | .sbxi _ => 0x51
  | .bclr => 0x52
  | .bpush _ => 0x53
  | .bpop => 0x54
  | .sbapp => 0x55
  | .sbinv => 0x56
  | .sbkapp => 0x57
  | .sbkinv => 0x58

/-- The field `a` a host sends for a command: its first operand zero-extended, or zeros (R94, R97). -/
def Instr.aOperand : Instr → BitVec 16
  | .nop | .sreset | .clre | .kclr | .kabuild | .tbuild | .bclr | .bpop => 0
  | .sbapp | .sbinv | .sbkapp | .sbkinv => 0
  | .rdcr n => n.setWidth 16
  | .getc v | .setsh v | .kard v | .trd v | .sbx v | .sbxi v => v.setWidth 16
  | .getv c | .isv c | .kpush c | .menc c | .mdec c | .penc c | .pdec c | .bpush c => c
  | .add c1 _ | .sub c1 _ => c1
  | .tshift c _ => c

/-- The field `b` a host sends for a command: its second operand, or zeros (R94, R97). -/
def Instr.bOperand : Instr → BitVec 16
  | .nop | .sreset | .clre | .kclr | .kabuild | .tbuild | .bclr | .bpop => 0
  | .sbapp | .sbinv | .sbkapp | .sbkinv => 0
  | .rdcr _ | .getc _ | .setsh _ | .kard _ | .trd _ | .sbx _ | .sbxi _ => 0
  | .getv _ | .isv _ | .kpush _ | .menc _ | .mdec _ | .penc _ | .pdec _ | .bpush _ => 0
  | .add _ c2 | .sub _ c2 => c2
  | .tshift _ v => v.setWidth 16

/-- `{op, b, a}`, "that is `word = op * 2^32 + b * 2^16 + a`" (R91). -/
def packWord (op : BitVec 8) (a b : BitVec 16) : CmdWord :=
  BitVec.ofNat 40 (op.toNat * 2 ^ 32 + b.toNat * 2 ^ 16 + a.toNat)

/-- The encoder: the word a host sends for a command (R91, R95), zeros in every ignored bit (R97). -/
def encode (i : Instr) : CmdWord := packWord i.opcode i.aOperand i.bOperand

/-- The mnemonic column of R95. -/
def mnemonics : List (String × BitVec 8) :=
  [("NOP", 0x00), ("SRESET", 0x01), ("RDCR", 0x02), ("CLRE", 0x03),
   ("GETC", 0x10), ("GETV", 0x11), ("ISV", 0x12), ("ADD", 0x13), ("SUB", 0x14),
   ("KCLR", 0x20), ("KPUSH", 0x21), ("SETSH", 0x22),
   ("KABUILD", 0x30), ("KARD", 0x31), ("MENC", 0x32), ("MDEC", 0x33),
   ("TBUILD", 0x40), ("TRD", 0x41), ("TSHIFT", 0x42), ("PENC", 0x43), ("PDEC", 0x44),
   ("SBX", 0x50), ("SBXI", 0x51), ("BCLR", 0x52), ("BPUSH", 0x53), ("BPOP", 0x54),
   ("SBAPP", 0x55), ("SBINV", 0x56), ("SBKAPP", 0x57), ("SBKINV", 0x58)]

/-- The word of `MNEMONIC a, b` (R100): "Omitted operands are zero", and the operands are given as numbers
(a glyph in quotes stands for its code). `none` for a word that is no mnemonic of R95. -/
def assemble (mnemonic : String) (a b : BitVec 16) : Option CmdWord :=
  (mnemonics.lookup mnemonic).map fun op => packWord op a b

/-- What the decoder reads from the table's word `w` of `nbits` bits, every bit above `nbits` zero. The
engine takes a command whole, as one 40-bit word (R99), so the table's numbering is the word's own. -/
def decodeTableWord (nbits w : Nat) : Option Instr := decode (BitVec.ofNat 40 (w % 2 ^ nbits))

end Sys2Proof
end

