-- ==== Sys2Proof/Config.lean ====
section
/-! DEFINITION. The free values: what 10_state.md R36 and 93_implementation_defined.md U3, U4 leave
unspecified. The parameters that the spec does give (00_scope.md R6 to R9) are in Machine/Params.lean. -/

namespace Sys2Proof

/-- One storage element whose contents can be unspecified (the rows of 10_state.md R36). -/
inductive FreeItem where
  | klen | key (j : Nat) | shift | ka (j : Nat) | kav | tt (j : Nat) | ttv | kidx | bias
  | blk (j : Nat) | bcnt | flt | estk | elast
  deriving DecidableEq, Repr

/-- DESIGN CHOICE (log 3, log 4). "an arbitrary draw" (R36): what a storage element of unspecified
contents holds after draw number `draw`. The reader takes the low bits it needs. It has no body, so no
proof can use its value. -/
opaque Config.freeBits (draw : Nat) (item : FreeItem) : Nat

end Sys2Proof
end

