-- ==== Sys2Proof/Machine/Params.lean ====
section
/-! DEFINITION. The parameters of 00_scope.md R6, R7 and R8, each a named constant (93 U10), and the default
glyph table of R9. -/

namespace Sys2Proof.Params

/-- `N`, the order of the ring (R6). -/
def ringOrder : Nat := 32

/-- `SHIFT_DEFAULT` (R6). -/
def shiftDefault : RingVal := 8

/-- `BLOCK`, symbols per S-block (R6). -/
def blockLen : Nat := 4

/-- `SBKEYLEN`, the key length the keyed S-block commands require (R6). -/
def sbKeyLen : Nat := 16

/-- `SBOX_MUL` (R6). -/
def sboxMul : RingVal := 7

/-- `SBOX_ADD` (R6). -/
def sboxAdd : RingVal := 3

/-- The inverse of `SBOX_MUL` modulo 32 (44_sblock.md R211: "7 * 23 = 161 = 5 * 32 + 1"). -/
def sboxMulInv : RingVal := 23

/-- `DIFF_STEP` (R6). -/
def diffStep : RingVal := 5

/-- `KMAX`, the capacity of the key buffer (R7). -/
def kmax : Nat := 32

/-- `FILLER`, the ring value of the padding symbol (R7). -/
def filler : RingVal := 31

end Sys2Proof.Params

namespace Sys2Proof

/-- The upper-case glyphs R8 fixes: `А`, `Б` and `В` at 0, 1 and 2, `Я` and `_` at 30 and 31. A character word holds a
Unicode code point (R7); the code points of these five are those of R9 (PRESUMED, log 6). -/
def fixedGlyph (v : RingVal) : CharWord :=
  match v.toNat with
  | 0 => 0x0410
  | 1 => 0x0411
  | 2 => 0x0412
  | 30 => 0x042F
  | _ => 0x005F

/-- A glyph table (R8), as far as R8 leaves it open: the upper-case glyphs of the ring values 3 to 29, and the lower-case
glyph of each ring value that has one. The five other upper-case glyphs are fixed (`fixedGlyph`). -/
structure GlyphTable where
  upElided : Vector CharWord 27
  lo : Vector (Option CharWord) 32
  deriving DecidableEq, Repr

/-- The upper-case glyph of `v`, `ALPHA_UP[v]`: fixed by R8 for 0, 1, 2, 30 and 31, the table's own for 3 to 29. -/
def GlyphTable.upAt (g : GlyphTable) (v : RingVal) : CharWord :=
  if h : 3 ≤ v.toNat ∧ v.toNat ≤ 29 then g.upElided[v.toNat - 3]'(by omega) else fixedGlyph v

/-- The lower-case glyph of `v`: `ALPHA_LO[v]`. -/
def GlyphTable.loAt (g : GlyphTable) (v : RingVal) : Option CharWord := g.lo[v.toNat]'(v.isLt)

/-- "ch == ALPHA_UP[j] or ch == ALPHA_LO[j]" (R14). -/
def GlyphTable.hasGlyph (g : GlyphTable) (v : RingVal) (ch : CharWord) : Bool :=
  ch == g.upAt v || g.loAt v == some ch

/-- The constraint of R8 on any instantiation: "no character word appears twice", but for an `ALPHA_LO[j]`
equal to its own `ALPHA_UP[j]`; that is, no character word is a glyph of two ring values. -/
def GlyphTable.Valid (g : GlyphTable) : Prop :=
  ∀ (v w : RingVal) (ch : CharWord), g.hasGlyph v ch = true → g.hasGlyph w ch = true → v = w

/-- PRESUMED (log 6). The default of the parameter `ALPHA_UP`, `ALPHA_LO`: the instantiation R9 gives, "from general
knowledge, not in source": the Russian alphabet without two letters, then `_`. -/
def defaultGlyphs : GlyphTable where
  upElided := #v[0x0413, 0x0414, 0x0415, 0x0416, 0x0417, 0x0418, 0x0419, 0x041A, 0x041B,
                 0x041C, 0x041D, 0x041E, 0x041F, 0x0420, 0x0421, 0x0422, 0x0423, 0x0424,
                 0x0425, 0x0426, 0x0427, 0x0428, 0x0429, 0x042B, 0x042C, 0x042D, 0x042E]
  lo := #v[some 0x0430, some 0x0431, some 0x0432, some 0x0433, some 0x0434, some 0x0435, some 0x0436, some 0x0437,
           some 0x0438, some 0x0439, some 0x043A, some 0x043B, some 0x043C, some 0x043D, some 0x043E, some 0x043F,
           some 0x0440, some 0x0441, some 0x0442, some 0x0443, some 0x0444, some 0x0445, some 0x0446, some 0x0447,
           some 0x0448, some 0x0449, some 0x044B, some 0x044C, some 0x044D, some 0x044E, some 0x044F, none]

end Sys2Proof
end

