-- ==== Sys2Proof/Machine/State.lean ====
section
/-! DEFINITION. The state of the engine (10_state.md R36, the single definition), the interface the host
drives it by, and the reset state. -/

namespace Sys2Proof.Machine

/-- A response word `{e, r}` (30_encoding.md R92). -/
structure Response where
  e : BitVec 4
  r : CharWord
  deriving DecidableEq, Repr

/-- What the host does to the engine: it presents a command word, asserts `rst` (R90, R10), or applies power
(70_reset_and_hazards.md R320). -/
inductive HostInput where
  | command (w : CmdWord)
  | rst
  | powerOn
  deriving DecidableEq, Repr

/-- The whole state. The first fourteen fields are the rows of 10_state.md R36; the next four are the model's own;
the last is no state but the parameter the engine was built with, which no step changes. -/
structure State where
  /-- `KLEN`, the number of key symbols loaded (R25). -/
  klen : BitVec 6
  /-- `KEY[0..31]`, the key buffer (R28). -/
  key : Vector KeyEntry 32
  /-- `SHIFT`, the shift constant (R26). -/
  shift : RingVal
  /-- `KA[0..31]`, the keyed alphabet (R29). -/
  ka : Table
  /-- `KAV`, valid bit of `KA` (R29). -/
  kav : Bool
  /-- `TT[0..31]`, the Trithemius table (R30). -/
  tt : Table
  /-- `TTV`, valid bit of `TT` (R30). -/
  ttv : Bool
  /-- `KIDX`, the key index of the current text position (R23). -/
  kidx : RingVal
  /-- `BIAS`, the split point of the next table shift (R24). -/
  bias : RingVal
  /-- `BLK[0..3]`, the block buffer (R31). -/
  blk : Block
  /-- `BCNT`, the number of character words in `BLK` (R27). -/
  bcnt : BitVec 3
  /-- `FLT`, the fault state (R32). -/
  flt : Bool
  /-- `ESTK`, the sticky error flag (R32). -/
  estk : Bool
  /-- `ELAST`, the code of the last error (R32). -/
  elast : BitVec 4
  /-- The model's own (log 1): what the host has sent and the engine has not yet taken, oldest first. -/
  inputs : List HostInput
  /-- The model's own (log 2): the responses given so far, oldest first. -/
  responses : List Response
  /-- The model's own (log 4): power was applied and no reset has come yet. -/
  awaitingReset : Bool
  /-- The model's own (log 3): the number of the draw last taken for unspecified contents. -/
  draws : Nat
  /-- The parameter `ALPHA_UP`, `ALPHA_LO` of this engine (00_scope.md R8, 93 G1 "the model takes the value as an
  argument"), carried beside the state so that `step` takes it: a constant, "never written by any command" (R33;
  log 18). -/
  glyphs : GlyphTable
  deriving DecidableEq, Repr

/-- How a step could stop the machine with a fault. NO CONSTRUCTOR: "rules R95 to R97 give every 40-bit word
a defined outcome" (30_encoding.md R98), and every error is a response after which the engine goes on
(60_exceptions.md R280, R288), so nothing raises one. Safe. -/
inductive Fault where
  deriving DecidableEq, Repr

/-- How a step can be refused. -/
inductive Refusal where
  /-- Raised by an arm of `exec` whose instruction has no meaning yet; no arm raises it now. Safe. -/
  | notModelled (mnemonic : String)
  /-- Raised by `step` on a command, other than SRESET, that the host sends between power-on and the first reset:
  "refuse for any command issued before the first reset" (93 U4; the host's duty, R320; log 4). Safe. -/
  | commandBeforeReset
  deriving DecidableEq, Repr

/-- DESIGN CHOICE (log 3). Unspecified contents of `KEY` after draw `n`: `{m, v}` from six free bits. -/
def freeKey (n : Nat) : Vector KeyEntry 32 :=
  Vector.ofFn fun j => ⟨(Config.freeBits n (.key j)).testBit 5, BitVec.ofNat 5 (Config.freeBits n (.key j))⟩

/-- DESIGN CHOICE (log 3). Unspecified contents of `KA` after draw `n`. -/
def freeKa (n : Nat) : Table := Vector.ofFn fun j => BitVec.ofNat 5 (Config.freeBits n (.ka j))

/-- DESIGN CHOICE (log 3). Unspecified contents of `TT` after draw `n`. -/
def freeTt (n : Nat) : Table := Vector.ofFn fun j => BitVec.ofNat 5 (Config.freeBits n (.tt j))

/-- DESIGN CHOICE (log 3). Unspecified contents of `BLK` after draw `n`. -/
def freeBlk (n : Nat) : Block := Vector.ofFn fun j => BitVec.ofNat 16 (Config.freeBits n (.blk j))

/-- An engine built with the glyph table `g` (00_scope.md R8), right after reset (10_state.md R36, R321), with nothing
sent and nothing answered. The arrays R36 calls unspecified hold draw 0. -/
def State.resetFor (g : GlyphTable) : State where
  klen := 0
  key := freeKey 0
  shift := Params.shiftDefault
  ka := freeKa 0
  kav := false
  tt := freeTt 0
  ttv := false
  kidx := 0
  bias := 0
  blk := freeBlk 0
  bcnt := 0
  flt := false
  estk := false
  elast := 0
  inputs := []
  responses := []
  awaitingReset := false
  draws := 0
  glyphs := g

/-- The machine right after reset, built with the default glyph table (00_scope.md R9). -/
def State.reset : State := State.resetFor defaultGlyphs

end Sys2Proof.Machine
end

