-- ==== Sys2Proof/Machine/Flags.lean ====
section
/-! DEFINITION. The flags of 10_state.md R32 (every way one is set or cleared) and the control and status
registers, which are views of the state (R34). -/

namespace Sys2Proof.Machine

/-- The error codes of 60_exceptions.md R281. -/
def errCode : Err → BitVec 4
  | .illop => 1
  | .keylen => 2
  | .blklen => 3
  | .noka => 4
  | .nott => 5
  | .empty => 6
  | .keyovf => 7
  | .keysym => 8
  | .fatal => 15

/-- `ESTK <- 1` and `ELAST <- code(E)` (R283). -/
def recordError (e : Err) (s : State) : State := { s with estk := true, elast := errCode e }

/-- `ESTK <- 0` and `ELAST <- 0` (45_system.md R243). -/
def clearErrors (s : State) : State := { s with estk := false, elast := 0 }

/-- `FLT <- 1` (60_exceptions.md R288). -/
def enterFaultState (s : State) : State := { s with flt := true }

/-- `KAV <- 0` and `TTV <- 0`: a change of the key makes both tables stale (20_memory.md R73). -/
def invalidateTables (s : State) : State := { s with kav := false, ttv := false }

/-- `CR0` (STATUS), 10_state.md R34: bits 0 `KAV`, 1 `TTV`, 2 `FLT`, 3 `ESTK`, 7:4 `ELAST`, 15:8 zero. -/
def cr0 (s : State) : BitVec 16 :=
  0#8 ++ s.elast ++ BitVec.ofBool s.estk ++ BitVec.ofBool s.flt ++ BitVec.ofBool s.ttv ++ BitVec.ofBool s.kav

/-- `CR1` (KEYCFG), R34: bits 5:0 `KLEN`, 7:6 zero, 12:8 `SHIFT`, 15:13 zero. -/
def cr1 (s : State) : BitVec 16 := 0#3 ++ s.shift ++ 0#2 ++ s.klen

/-- `CR2` (POSN), R34: bits 4:0 `KIDX`, 7:5 zero, 12:8 `BIAS`, 15:13 `BCNT`. -/
def cr2 (s : State) : BitVec 16 := s.bcnt ++ s.bias ++ 0#3 ++ s.kidx

/-- The register `RDCR n` reads (45_system.md R242); `CR3` reads as `0x0000` (R34). -/
def controlRegister (n : BitVec 2) (s : State) : BitVec 16 :=
  if n = 0 then cr0 s else if n = 1 then cr1 s else if n = 2 then cr2 s else 0

end Sys2Proof.Machine
end

