-- ==== Sys2Proof/Machine/Operands.lean ====
section
/-! DEFINITION. The pure functions of 00_scope.md R14 that turn operands into ring values and back, the
accesses to a 32-entry table, and the S-box with its inverse (44_sblock.md R210, R211). -/

namespace Sys2Proof.Machine

/-- `classify(ch) -> (m, v)` with the glyph table `g` (R14): the ring value a character word is a glyph of, if there
is one (there is at most one, by the constraint of R8). -/
def classify (g : GlyphTable) (ch : CharWord) : KeyEntry :=
  match ringValues.find? fun v => g.hasGlyph v ch with
  | some v => ⟨true, v⟩
  | none => ⟨false, 0⟩

/-- `val(ch)` (R14): 0 for a non-member, the sentinel of 40_ring.md R121. -/
def val (g : GlyphTable) (ch : CharWord) : RingVal := (classify g ch).v

/-- `glyph(v) = ALPHA_UP[v mod 32]`, always the upper-case glyph (R14). -/
def glyph (g : GlyphTable) (v : RingVal) : CharWord := g.upAt v

/-- `succ(v) = (v + 1) mod 32`, the ring successor (R14). -/
def succ (v : RingVal) : RingVal := v + 1

/-- `A[j]` of a 32-entry array (R13); a 5-bit index is always in range (20_memory.md R65). -/
def entry {α : Type} (A : Vector α 32) (j : RingVal) : α := A[j.toNat]'(j.isLt)

/-- `index_of(A, 32, v)`: the least `j` with `A[j] == v`, or none (R14). -/
def indexOf (A : Table) (v : RingVal) : Option RingVal :=
  (A.toList.findIdx? fun x => x == v).map (BitVec.ofNat 5)

/-- A 32-entry table from a list of 32 ring values. A list of another length would be cut or filled with 0:
no rule makes one (log 10). -/
def tableOf (l : List RingVal) : Table := Vector.ofFn fun j => l.getD j 0

/-- `SBOX[v] = (7*v + 3) mod 32` (R14, 44_sblock.md R210). -/
def sbox (v : RingVal) : RingVal := Params.sboxMul * v + Params.sboxAdd

/-- `ISBOX[w] = (23*(w - 3)) mod 32` (R14, 44_sblock.md R211). -/
def isbox (w : RingVal) : RingVal := Params.sboxMulInv * (w - Params.sboxAdd)

/-- `out.append(v)` for a ring value `out` does not hold yet, else `out` (R160, R181). -/
def appendNew (out : List RingVal) (v : RingVal) : List RingVal := if v ∈ out then out else out ++ [v]

/-- "append remaining base-alphabet symbols (original ring order) not already included" (R160, R181). -/
def fillInRingOrder (out : List RingVal) : List RingVal := ringValues.foldl appendNew out

/-- The probe loops of 43_poly.md R181 and R183: `while s in taken: s = succ(s)`, for at most `fuel` steps. -/
def advancePast (taken : List RingVal) : Nat → RingVal → RingVal
  | 0, s => s
  | fuel + 1, s => if s ∈ taken then advancePast taken fuel (succ s) else s

/-- The probe loop run to its end: with at most 31 distinct values taken it leaves them within 32 steps
(70_reset_and_hazards.md R341; log 9). -/
def probe (taken : List RingVal) (s : RingVal) : RingVal := advancePast taken Params.ringOrder s

end Sys2Proof.Machine
end

