-- ==== Sys2Proof/Machine/Ops.lean ====
section
/-! DEFINITION. The shared operations: giving a response, raising an error (the engine's whole "trap"
mechanism, 60_exceptions.md), the fault-state check every command begins with, reset, and the accesses to
the key buffer and the block buffer. -/

namespace Sys2Proof.Machine

/-- The outcome of one command. -/
abbrev Result := Host.Outcome State Fault Refusal

/-- The 20-bit response word `{e, r}` (30_encoding.md R92). -/
def responseWord (r : Response) : BitVec 20 := r.e ++ r.r

/-- The engine presents one response word (30_encoding.md R90, R93). -/
def answer (e : BitVec 4) (r : CharWord) (s : State) : State :=
  { s with responses := s.responses ++ [⟨e, r⟩] }

/-- `respond(r)`: the command ends with response `{e = 0, r}` (00_scope.md R15). -/
def respond (r : CharWord) (s : State) : Result := .next (answer 0 r s)

/-- `raise E_X` (R15, 60_exceptions.md R283): response `{e = code(E_X), r = 0}`, `ESTK <- 1`,
`ELAST <- code(E_X)`, and nothing else. The one operation by which a command takes an error. -/
def raise (e : Err) (s : State) : Result := .next (answer (errCode e) 0 (recordError e s))

/-- `fatal` (R15, R288): `FLT <- 1`, then as `raise E_FATAL`. -/
def fatal (s : State) : Result := raise .fatal (enterFaultState s)

/-- Step 2 of 30_encoding.md R102: in the fault state the command answers `{e = E_FATAL, r = 0}` with "no state
change at all" (R289); otherwise it goes on. -/
def unlessFaulted (s : State) (k : Result) : Result :=
  if s.flt then .next (answer (errCode .fatal) 0 s) else k

/-- Step 3 of R102: a word whose opcode R95 does not list (R96). -/
def rejectIllegal (s : State) : Result := unlessFaulted s (raise .illop s)

/-- Every state element to its reset value (10_state.md R36), for `rst` and SRESET alike (R35, R320). The
unspecified arrays take a new draw, "exactly as after the rst input" (45_system.md R241); what the host has
sent and been answered is not the engine's state. -/
def resetEngine (s : State) : State :=
  { State.resetFor s.glyphs with
    key := freeKey (s.draws + 1)
    ka := freeKa (s.draws + 1)
    tt := freeTt (s.draws + 1)
    blk := freeBlk (s.draws + 1)
    inputs := s.inputs
    responses := s.responses
    draws := s.draws + 1 }

/-- DESIGN CHOICE (log 4). Power is applied: "After power is applied the state is unspecified until the first
reset" (70_reset_and_hazards.md R320), so every element of R36 takes a free draw. -/
def applyPower (s : State) : State :=
  let n := s.draws + 1
  { klen := BitVec.ofNat 6 (Config.freeBits n .klen)
    key := freeKey n
    shift := BitVec.ofNat 5 (Config.freeBits n .shift)
    ka := freeKa n
    kav := (Config.freeBits n .kav).testBit 0
    tt := freeTt n
    ttv := (Config.freeBits n .ttv).testBit 0
    kidx := BitVec.ofNat 5 (Config.freeBits n .kidx)
    bias := BitVec.ofNat 5 (Config.freeBits n .bias)
    blk := freeBlk n
    bcnt := BitVec.ofNat 3 (Config.freeBits n .bcnt)
    flt := (Config.freeBits n .flt).testBit 0
    estk := (Config.freeBits n .estk).testBit 0
    elast := BitVec.ofNat 4 (Config.freeBits n .elast)
    inputs := s.inputs
    responses := s.responses
    awaitingReset := true
    draws := n
    glyphs := s.glyphs }

/-- The key now loaded: `KEY[0..KLEN-1]` (R28). -/
def loadedKey (s : State) : List KeyEntry := s.key.toList.take s.klen.toNat

/-- The key buffer is full (41_key.md R141). DEDUCED (log 8): a `KLEN` above 32, which never occurs, is full too. -/
def keyFull (s : State) : Bool := decide (Params.kmax ≤ s.klen.toNat)

/-- `KEY[KLEN] <- e`, then `KLEN <- KLEN + 1` (41_key.md R141). -/
def pushKey (e : KeyEntry) (s : State) : State :=
  { s with key := s.key.setIfInBounds s.klen.toNat e, klen := s.klen + 1 }

/-- `advance()` (43_poly.md R188): `KIDX <- (KIDX + 1) mod KLEN`, `BIAS <- (BIAS + 1) mod 32`. -/
def advance (s : State) : State :=
  { s with kidx := BitVec.ofNat 5 ((s.kidx.toNat + 1) % s.klen.toNat), bias := s.bias + 1 }

/-- The block buffer is full (44_sblock.md R215). DEDUCED (log 8): a `BCNT` above 4, which never occurs, is full too. -/
def blockFull (s : State) : Bool := decide (Params.blockLen ≤ s.bcnt.toNat)

/-- `BCNT == 4`: the block holds exactly the symbols a transform needs (20_memory.md R66). -/
def blockReady (s : State) : Bool := decide (s.bcnt.toNat = Params.blockLen)

/-- `KLEN == 16`: the key has the length the keyed transforms need (44_sblock.md R219). -/
def sbKeyReady (s : State) : Bool := decide (s.klen.toNat = Params.sbKeyLen)

/-- `BLK[BCNT] <- ch`, then `BCNT <- BCNT + 1` (44_sblock.md R215). -/
def pushBlock (ch : CharWord) (s : State) : State :=
  { s with blk := s.blk.setIfInBounds s.bcnt.toNat ch, bcnt := s.bcnt + 1 }

/-- `BLK[k]` after "for k in 0 .. BCNT-2: BLK[k] <- BLK[k+1]", all moves together (44_sblock.md R216). -/
def shiftDown (n : Nat) (b : Block) : Block :=
  #v[if 1 < n then b[1] else b[0], if 2 < n then b[2] else b[1], if 3 < n then b[3] else b[2], b[3]]

/-- The remaining entries move down one place and `BCNT <- BCNT - 1` (44_sblock.md R216). -/
def popBlock (s : State) : State :=
  { s with blk := shiftDown s.bcnt.toNat s.blk, bcnt := s.bcnt - 1 }

end Sys2Proof.Machine
end

