-- ==== Sys2Proof/Machine/Key.lean ====
section
/-! DEFINITION. Key and shift loading (41_key.md). -/

namespace Sys2Proof.Machine

/-- KCLR (R140) starts a new key. -/
def execKclr (s : State) : Result := unlessFaulted s (respond 0 (invalidateTables { s with klen := 0 }))

/-- KPUSH (R141) appends one classified character to the key; E_KEYOVF when the buffer is full. -/
def execKpush (ch : CharWord) (s : State) : Result :=
  unlessFaulted s
    (if keyFull s then raise .keyovf s else respond 0 (invalidateTables (pushKey (classify s.glyphs ch) s)))

/-- SETSH (R142) sets the shift constant. -/
def execSetsh (v : RingVal) (s : State) : Result := unlessFaulted s (respond 0 { s with shift := v })

end Sys2Proof.Machine
end

