-- ==== Sys2Proof/Machine/KeyedAlphabet.lean ====
section
/-! DEFINITION. The keyed alphabet unit and the monoalphabetic cipher (42_keyed_alphabet_mono.md). -/

namespace Sys2Proof.Machine

/-- One step of the first loop of R160: "keep a symbol the first time it is seen AND it is a member". -/
def keepMember (out : List RingVal) (e : KeyEntry) : List RingVal := if e.m then appendNew out e.v else out

/-- `kabuild(K, n)` (R160), for the key `K` given as its list of entries. -/
def kabuild (K : List KeyEntry) : List RingVal := fillInRingOrder (K.foldl keepMember [])

/-- KABUILD (R161) builds the keyed alphabet from the loaded key. -/
def execKabuild (s : State) : Result :=
  unlessFaulted s (respond 0 { s with ka := tableOf (kabuild (loadedKey s)), kav := true })

/-- KARD (R162) reads one symbol of the keyed alphabet; E_NOKA when none is built for the current key. -/
def execKard (j : RingVal) (s : State) : Result :=
  unlessFaulted s (if s.kav then respond (glyph s.glyphs (entry s.ka j)) s else raise .noka s)

/-- The monoalphabetic cipher (R163, R164), with the index moved by `move`: the empty-key bypass, the valid
bit, the pass-through of a non-member, and the substitution. -/
def monoCipher (move : RingVal → RingVal → RingVal) (ch : CharWord) (s : State) : Result :=
  if s.klen = 0 then respond ch s
  else if !s.kav then raise .noka s
  else if !(classify s.glyphs ch).m then respond ch s
  else
    match indexOf s.ka (val s.glyphs ch) with
    | none => fatal s
    | some j => respond (glyph s.glyphs (entry s.ka (move j s.shift))) s

/-- MENC (R163): the symbol at `(j + SHIFT) mod 32`. -/
def execMenc (ch : CharWord) (s : State) : Result := unlessFaulted s (monoCipher (fun j k => j + k) ch s)

/-- MDEC (R164): the symbol at `(j - SHIFT) mod 32`. -/
def execMdec (ch : CharWord) (s : State) : Result := unlessFaulted s (monoCipher (fun j k => j - k) ch s)

end Sys2Proof.Machine
end

