-- ==== Sys2Proof/Machine/Poly.lean ====
section
/-! DEFINITION. The poly table unit (43_poly.md): table construction, the table shift and the
polyalphabetic cipher. -/

namespace Sys2Proof.Machine

/-- One step of the first loop of R181: while the table has fewer than 32 entries, place the key symbol or
the first ring successor of it that is not yet placed. -/
def placeSymbol (out : List RingVal) (e : KeyEntry) : List RingVal :=
  if out.length < Params.ringOrder then out ++ [probe out e.v] else out

/-- `tbuild(K, n)` (R181), for the key `K` given as its list of entries; the length test comes first
(90_conflicts.md C1). -/
def tbuild (K : List KeyEntry) : List RingVal := fillInRingOrder (K.foldl placeSymbol [])

/-- `head = T[0 .. bias-1]` (R183). -/
def tableHead (T : Table) (bias : RingVal) : List RingVal := T.toList.take bias.toNat

/-- `tail = T[bias .. 31]` (R183). -/
def tableTail (T : Table) (bias : RingVal) : List RingVal := T.toList.drop bias.toNat

/-- "the least j in bias..31" whose entry satisfies `f`, or none (R183). -/
def firstInTail (T : Table) (bias : RingVal) (f : RingVal → Bool) : Option Nat :=
  ((tableTail T bias).findIdx? f).map fun k => bias.toNat + k

/-- The pivot found by advancing the target past the head (R183); a non-member target finds none. -/
def targetPivot (T : Table) (t : KeyEntry) (bias : RingVal) : Option Nat :=
  if t.m then firstInTail T bias fun x => x == probe (tableHead T bias) t.v else none

/-- The fallback pivot: "the first symbol in tail that is also absent from head" (R183). -/
def fallbackPivot (T : Table) (bias : RingVal) : Option Nat :=
  firstInTail T bias fun x => !(tableHead T bias).contains x

/-- The pivot position `p` of R183, or none for a malformed table. -/
def pivotPosition (T : Table) (t : KeyEntry) (bias : RingVal) : Option Nat :=
  match targetPivot T t bias with
  | some p => some p
  | none => fallbackPivot T bias

/-- `T' = [pivot] ++ T[0 .. p-1] ++ T[p+1 .. 31]` (R183). -/
def moveToFront (T : Table) (p : Nat) : Table :=
  tableOf ((T.toList.drop p).take 1 ++ T.toList.take p ++ T.toList.drop (p + 1))

/-- `shift(T, t, bias)` (R183): the new table and the pivot position; none is the rule's `fatal`. -/
def shiftTable (T : Table) (t : KeyEntry) (bias : RingVal) : Option (Table × Nat) :=
  (pivotPosition T t bias).map fun p => (moveToFront T p, p)

/-- TBUILD (R182) builds the table from the loaded key and sets the text position to 0; E_KEYSYM when the key
has a non-member. -/
def execTbuild (s : State) : Result :=
  unlessFaulted s
    (if (loadedKey s).any (fun e => !e.m) then raise .keysym s
     else respond 0 { s with tt := tableOf (tbuild (loadedKey s)), kidx := 0, bias := s.klen.setWidth 5, ttv := true })

/-- TRD (R184) reads one entry of the table; E_NOTT when none is built for the current key. -/
def execTrd (j : RingVal) (s : State) : Result :=
  unlessFaulted s (if s.ttv then respond (glyph s.glyphs (entry s.tt j)) s else raise .nott s)

/-- TSHIFT (R185) applies the table shift once, with the target and bias given, and answers the pivot. -/
def execTshift (target : CharWord) (bias : RingVal) (s : State) : Result :=
  unlessFaulted s
    (if !s.ttv then raise .nott s
     else
       match shiftTable s.tt (classify s.glyphs target) bias with
       | none => fatal s
       | some (T, p) => respond (glyph s.glyphs (entry s.tt (BitVec.ofNat 5 p))) { s with tt := T })

/-- One step of the polyalphabetic cipher (R186, R187), with the index moved by `move`: the empty-key bypass,
the valid bit, a non-member (the position moves, the table does not: R188, 90_conflicts.md C2), and the
substitution followed by the table shift and the advance. -/
def polyCipher (move : RingVal → RingVal → RingVal) (ch : CharWord) (s : State) : Result :=
  if s.klen = 0 then respond ch s
  else if !s.ttv then raise .nott s
  else if !(classify s.glyphs ch).m then respond ch (advance s)
  else
    match indexOf s.tt (val s.glyphs ch) with
    | none => fatal s
    | some pos =>
      match shiftTable s.tt (entry s.key s.kidx) s.bias with
      | none => fatal s
      | some (T, _) => respond (glyph s.glyphs (entry s.tt (move pos s.shift))) (advance { s with tt := T })

/-- PENC (R186): emit `TT[(pos + SHIFT) mod 32]`. -/
def execPenc (ch : CharWord) (s : State) : Result := unlessFaulted s (polyCipher (fun p k => p + k) ch s)

/-- PDEC (R187): emit `TT[(pos - SHIFT) mod 32]`, with the same table evolution. -/
def execPdec (ch : CharWord) (s : State) : Result := unlessFaulted s (polyCipher (fun p k => p - k) ch s)

end Sys2Proof.Machine
end

