-- ==== Sys2Proof/Machine/Ring.lean ====
section
/-! DEFINITION. The ring unit (40_ring.md): pure functions of the operands (R120). -/

namespace Sys2Proof.Machine

/-- GETC (R122): `glyph(a[4:0])`. -/
def execGetc (v : RingVal) (s : State) : Result := unlessFaulted s (respond (glyph s.glyphs v) s)

/-- GETV (R121): the ring value of a character word, 0 for a non-member. -/
def execGetv (ch : CharWord) (s : State) : Result := unlessFaulted s (respond ((val s.glyphs ch).setWidth 16) s)

/-- ISV (R123): 1 for a member, 0 for a non-member. -/
def execIsv (ch : CharWord) (s : State) : Result :=
  unlessFaulted s (respond ((BitVec.ofBool (classify s.glyphs ch).m).setWidth 16) s)

/-- ADD (R124): `glyph((val(a) + val(b)) mod 32)`. -/
def execAdd (c1 c2 : CharWord) (s : State) : Result :=
  unlessFaulted s (respond (glyph s.glyphs (val s.glyphs c1 + val s.glyphs c2)) s)

/-- SUB (R125): `glyph((val(a) - val(b)) mod 32)`. -/
def execSub (c1 c2 : CharWord) (s : State) : Result :=
  unlessFaulted s (respond (glyph s.glyphs (val s.glyphs c1 - val s.glyphs c2)) s)

end Sys2Proof.Machine
end

