-- ==== Sys2Proof/Machine/SBlock.lean ====
section
/-! DEFINITION. The S-block unit (44_sblock.md). -/

namespace Sys2Proof.Machine

/-- The diffusion constant of block position `i`: `(5*i) mod 32` (R217). -/
def diffusion (i : RingVal) : RingVal := Params.diffStep * i

/-- The key value of block position `i`: `KEY[i mod KLEN].v` (R219). -/
def blockKeyValue (s : State) (i : RingVal) : RingVal :=
  (entry s.key (BitVec.ofNat 5 (i.toNat % s.klen.toNat))).v

/-- One lane (R217 to R221): a member is replaced by the glyph of its transformed value, a non-member is left
bit for bit. -/
def lane (g : GlyphTable) (f : RingVal → RingVal → RingVal) (i : RingVal) (ch : CharWord) : CharWord :=
  if (classify g ch).m then glyph g (f i (val g ch)) else ch

/-- The four independent lanes of a block transform (R221). -/
def mapBlock (g : GlyphTable) (f : RingVal → RingVal → RingVal) (b : Block) : Block :=
  #v[lane g f 0 b[0], lane g f 1 b[1], lane g f 2 b[2], lane g f 3 b[3]]

/-- The forward lane with key value `kv i`: `SBOX[v] + (5*i) mod 32 + kv` (R217, R219). -/
def forwardLane (kv : RingVal → RingVal) (i v : RingVal) : RingVal := sbox v + diffusion i + kv i

/-- The backward lane with key value `kv i`: `ISBOX[v - kv - (5*i) mod 32]` (R218, R220). -/
def backwardLane (kv : RingVal → RingVal) (i v : RingVal) : RingVal := isbox (v - kv i - diffusion i)

/-- The unkeyed variant mixes in no key value (R217, R218). -/
def noKeyValue (_ : RingVal) : RingVal := 0

/-- A transform of the whole block in place, E_BLKLEN when the block does not hold 4 symbols (R217). -/
def transformBlock (f : RingVal → RingVal → RingVal) (s : State) : Result :=
  if blockReady s then respond 0 { s with blk := mapBlock s.glyphs f s.blk } else raise .blklen s

/-- The key-length check of the keyed variants, which comes first (R219, 60_exceptions.md R284). -/
def keyedTransform (f : RingVal → RingVal → RingVal) (s : State) : Result :=
  if sbKeyReady s then transformBlock f s else raise .keylen s

/-- SBX (R212) looks up the S-box. -/
def execSbx (v : RingVal) (s : State) : Result := unlessFaulted s (respond ((sbox v).setWidth 16) s)

/-- SBXI (R213) looks up the inverse S-box. -/
def execSbxi (w : RingVal) (s : State) : Result := unlessFaulted s (respond ((isbox w).setWidth 16) s)

/-- BCLR (R214) empties the block buffer. -/
def execBclr (s : State) : Result := unlessFaulted s (respond 0 { s with bcnt := 0 })

/-- BPUSH (R215) appends one character word to the block; E_BLKLEN when it is full. -/
def execBpush (ch : CharWord) (s : State) : Result :=
  unlessFaulted s (if blockFull s then raise .blklen s else respond 0 (pushBlock ch s))

/-- BPOP (R216) removes and returns the first character word of the block; E_EMPTY when there is none. -/
def execBpop (s : State) : Result :=
  unlessFaulted s (if s.bcnt = 0 then raise .empty s else respond s.blk[0] (popBlock s))

/-- SBAPP (R217): S-box, then positional diffusion. -/
def execSbapp (s : State) : Result := unlessFaulted s (transformBlock (forwardLane noKeyValue) s)

/-- SBINV (R218): undo the positional shift, then the inverse S-box. -/
def execSbinv (s : State) : Result := unlessFaulted s (transformBlock (backwardLane noKeyValue) s)

/-- SBKAPP (R219): as SBAPP, adding the key value of each position. -/
def execSbkapp (s : State) : Result := unlessFaulted s (keyedTransform (forwardLane (blockKeyValue s)) s)

/-- SBKINV (R220): subtract the key value of each position, then as SBINV. -/
def execSbkinv (s : State) : Result := unlessFaulted s (keyedTransform (backwardLane (blockKeyValue s)) s)

end Sys2Proof.Machine
end

