-- ==== Sys2Proof/Machine/System.lean ====
section
/-! DEFINITION. The system commands (45_system.md). -/

namespace Sys2Proof.Machine

/-- NOP (R240) does nothing. -/
def execNop (s : State) : Result := unlessFaulted s (respond 0 s)

/-- SRESET (R241) puts the engine into its reset state. It is accepted in the fault state (R102 step 2). -/
def execSreset (s : State) : Result := respond 0 (resetEngine s)

/-- RDCR (R242) reads a control and status register. It is accepted in the fault state (R102 step 2). -/
def execRdcr (n : BitVec 2) (s : State) : Result := respond (controlRegister n s) s

/-- CLRE (R243) acknowledges an error. -/
def execClre (s : State) : Result := unlessFaulted s (respond 0 (clearErrors s))

end Sys2Proof.Machine
end

