-- ==== Sys2Proof/Machine/Dispatch.lean ====
section
/-! DEFINITION. One arm per command, each one call of its meaning. -/

namespace Sys2Proof.Machine

def exec (i : Instr) (s : State) : Host.Outcome State Fault Refusal :=
  match i with
  | .nop => Sys2Proof.Machine.execNop s
  | .sreset => Sys2Proof.Machine.execSreset s
  | .rdcr n => Sys2Proof.Machine.execRdcr n s
  | .clre => Sys2Proof.Machine.execClre s
  | .getc v => Sys2Proof.Machine.execGetc v s
  | .getv ch => Sys2Proof.Machine.execGetv ch s
  | .isv ch => Sys2Proof.Machine.execIsv ch s
  | .add c1 c2 => Sys2Proof.Machine.execAdd c1 c2 s
  | .sub c1 c2 => Sys2Proof.Machine.execSub c1 c2 s
  | .kclr => Sys2Proof.Machine.execKclr s
  | .kpush ch => Sys2Proof.Machine.execKpush ch s
  | .setsh v => Sys2Proof.Machine.execSetsh v s
  | .kabuild => Sys2Proof.Machine.execKabuild s
  | .kard j => Sys2Proof.Machine.execKard j s
  | .menc ch => Sys2Proof.Machine.execMenc ch s
  | .mdec ch => Sys2Proof.Machine.execMdec ch s
  | .tbuild => Sys2Proof.Machine.execTbuild s
  | .trd j => Sys2Proof.Machine.execTrd j s
  | .tshift target bias => Sys2Proof.Machine.execTshift target bias s
  | .penc ch => Sys2Proof.Machine.execPenc ch s
  | .pdec ch => Sys2Proof.Machine.execPdec ch s
  | .sbx v => Sys2Proof.Machine.execSbx v s
  | .sbxi w => Sys2Proof.Machine.execSbxi w s
  | .bclr => Sys2Proof.Machine.execBclr s
  | .bpush ch => Sys2Proof.Machine.execBpush ch s
  | .bpop => Sys2Proof.Machine.execBpop s
  | .sbapp => Sys2Proof.Machine.execSbapp s
  | .sbinv => Sys2Proof.Machine.execSbinv s
  | .sbkapp => Sys2Proof.Machine.execSbkapp s
  | .sbkinv => Sys2Proof.Machine.execSbkinv s

end Sys2Proof.Machine
end

