-- ==== Sys2Proof/Machine/Accept.lean ====
section
/-! DEFINITION. How the engine takes what the host sends: one input a step, in order (30_encoding.md R90,
R93, 20_memory.md R70). -/

namespace Sys2Proof.Machine

/-- The engine accepts a command word (R90): steps 1 to 4 of R102. -/
def acceptCommand (w : CmdWord) (s : State) : Result :=
  match decode w with
  | some i => exec i s
  | none => rejectIllegal s

/-- The word is SRESET, one of the two causes of a reset (70_reset_and_hazards.md R320). -/
def isReset (w : CmdWord) : Bool := decide (decode w = some .sreset)

/-- The engine takes one input: a command word (refused between power-on and the first reset, 93 U4, unless it is
that reset: log 4), `rst` or power (70_reset_and_hazards.md R320). -/
def acceptInput (h : HostInput) (s : State) : Result :=
  match h with
  | .command w =>
      if s.awaitingReset && !isReset w then .refused .commandBeforeReset else acceptCommand w s
  | .rst => .next (resetEngine s)
  | .powerOn => .next (applyPower s)

/-- The engine takes the oldest input not yet taken; with none, it holds its state (60_exceptions.md R297). -/
def acceptNext (s : State) : Result :=
  match s.inputs with
  | [] => .next s
  | h :: rest => acceptInput h { s with inputs := rest }

/-- The host presents a word as the next the engine takes, to an engine that has been reset. -/
def presentWord (w : CmdWord) (s : State) : State :=
  { s with inputs := .command w :: s.inputs, awaitingReset := false }

end Sys2Proof.Machine
end

