-- ==== Sys2Proof/Machine/Step.lean ====
section
/-! DEFINITION. One step of the machine, and the placing of a word where the next step takes it. -/

namespace Sys2Proof.Machine

/-- One step: the engine takes one input of the host and runs it to completion (00_scope.md R10, R90). -/
def step (s : State) : Host.Outcome State Fault Refusal := acceptNext s

/-- `s` with the table's word `w` of `nbits` bits (zeros above) as the next input of an engine that has been
reset. -/
def State.withFetchWord (s : State) (nbits w : Nat) : State := presentWord (BitVec.ofNat 40 (w % 2 ^ nbits)) s

end Sys2Proof.Machine
end

