-- ==== Sys2Proof/Machine/Procedures.lean ====
section
/-! DEFINITION. The host's text procedures (46_text_procedures.md): fixed command sequences sent through
`step`, with the host-side length checks, padding and stripping. -/

namespace Sys2Proof.Machine

/-- How a procedure fails: an error response stops it with that error (R260), or a host check does (R266,
R269). `noResponse` stands for a step that gives no next state: a command sent before the first reset. -/
inductive ProcError where
  | engine (e : BitVec 4)
  | keyLength
  | textLength
  | noResponse
  deriving DecidableEq, Repr

/-- What a procedure returns, and the state it leaves the engine in. A procedure that returns an error returns no
text (R260). -/
abbrev ProcResult (α : Type) := Except ProcError α × State

/-- The procedure goes on unless it has stopped. -/
def andThen {α β : Type} (p : ProcResult α) (k : α → State → ProcResult β) : ProcResult β :=
  match p with
  | (.error e, t) => (.error e, t)
  | (.ok x, t) => k x t

/-- "send the command, and if the response has e = 0 bind y = r; if e != 0 the procedure stops" (R260). -/
def call (i : Instr) (s : State) : ProcResult CharWord :=
  match step { s with inputs := .command (encode i) :: s.inputs } with
  | .next t =>
    match t.responses.getLast? with
    | some rsp => (if rsp.e = 0 then .ok rsp.r else .error (.engine rsp.e), t)
    | none => (.error .noResponse, t)
  | _ => (.error .noResponse, s)

/-- The commands in order, and their results in order. -/
def callAll : List Instr → State → ProcResult Text
  | [], s => (.ok [], s)
  | i :: is, s => andThen (call i s) fun y t => andThen (callAll is t) fun ys u => (.ok (y :: ys), u)

/-- `LOADKEY(key)` (R261). -/
def loadKeyCommands (key : Text) : List Instr := .kclr :: key.map .kpush

/-- LOADKEY, SETSH 8, KABUILD, then one cipher command per character (R262, R263). -/
def runMono (mk : CharWord → Instr) (text key : Text) (s : State) : ProcResult Text :=
  andThen (callAll (loadKeyCommands key ++ [.setsh Params.shiftDefault, .kabuild]) s) fun _ t =>
    callAll (text.map mk) t

/-- `encrypt_simple(text, key)` (R262). -/
def encryptSimple (text key : Text) (s : State) : ProcResult Text := runMono .menc text key s

/-- `decrypt_simple(text, key)` (R263). -/
def decryptSimple (text key : Text) (s : State) : ProcResult Text := runMono .mdec text key s

/-- LOADKEY, SETSH (shift mod 32), TBUILD, then one cipher command per character (R264, R265). -/
def runPoly (mk : CharWord → Instr) (text key : Text) (shift : Int) (s : State) : ProcResult Text :=
  andThen (callAll (loadKeyCommands key ++ [.setsh (BitVec.ofInt 5 shift), .tbuild]) s) fun _ t =>
    callAll (text.map mk) t

/-- `encrypt_polyalphabetic(text, key, shift)` (R264). -/
def encryptPolyalphabetic (text key : Text) (shift : Int) (s : State) : ProcResult Text :=
  runPoly .penc text key shift s

/-- `decrypt_polyalphabetic(text, key, shift)` (R265). -/
def decryptPolyalphabetic (text key : Text) (shift : Int) (s : State) : ProcResult Text :=
  runPoly .pdec text key shift s

/-- One block: BCLR, four BPUSH, the transform, four BPOP; the results of the pops (R266). -/
def runBlock (tr : Instr) (a b c d : CharWord) (s : State) : ProcResult Text :=
  andThen (callAll [.bclr, .bpush a, .bpush b, .bpush c, .bpush d, tr] s) fun _ t =>
    callAll [.bpop, .bpop, .bpop, .bpop] t

/-- The blocks of a text in order (R266, R268, R269). A short last block, which the host checks keep out, is
sent as it is and answered E_BLKLEN. -/
def runBlocks (tr : Instr) : Text → State → ProcResult Text
  | [], s => (.ok [], s)
  | a :: b :: c :: d :: rest, s =>
    andThen (runBlock tr a b c d s) fun ys t => andThen (runBlocks tr rest t) fun zs u => (.ok (ys ++ zs), u)
  | short, s => callAll (.bclr :: short.map .bpush ++ [tr]) s

/-- The keyed S-block functions: the key length is checked first, the text length second (R266). -/
def runSBlocks (tr : Instr) (text key16 : Text) (s : State) : ProcResult Text :=
  if key16.length ≠ Params.sbKeyLen then (.error .keyLength, s)
  else if text.length % Params.blockLen ≠ 0 then (.error .textLength, s)
  else andThen (callAll (loadKeyCommands key16) s) fun _ t => runBlocks tr text t

/-- `encrypt_s_blocks(text, key16)` (R266). -/
def encryptSBlocks (text key16 : Text) (s : State) : ProcResult Text := runSBlocks .sbkapp text key16 s

/-- `decrypt_s_blocks(text, key16)` (R267). -/
def decryptSBlocks (text key16 : Text) (s : State) : ProcResult Text := runSBlocks .sbkinv text key16 s

/-- The padding symbol `glyph(FILLER)` (R271). -/
def fillerGlyph (g : GlyphTable) : CharWord := glyph g Params.filler

/-- `pad4(y)` (R271): zero to three copies of the filler, up to a multiple of 4. -/
def pad4 (g : GlyphTable) (y : Text) : Text :=
  y ++ List.replicate ((Params.blockLen - y.length % Params.blockLen) % Params.blockLen) (fillerGlyph g)

/-- `strip(z)` (R272): every filler at the end is removed. -/
def strip (g : GlyphTable) (z : Text) : Text := (z.reverse.dropWhile fun c => c == fillerGlyph g).reverse

/-- `encrypt_enhanced_sblocks(text, key)` (R268). -/
def encryptEnhanced (text key : Text) (s : State) : ProcResult Text :=
  andThen (encryptPolyalphabetic text key 8 s) fun y t => runBlocks .sbapp (pad4 s.glyphs y) t

/-- `decrypt_enhanced_sblocks(text, key)` (R269). -/
def decryptEnhanced (text key : Text) (s : State) : ProcResult Text :=
  if text.length % Params.blockLen ≠ 0 then (.error .textLength, s)
  else andThen (runBlocks .sbinv text s) fun z t => decryptPolyalphabetic (strip s.glyphs z) key 8 t

/-- `get_custom_alphabet_string(key)` (R270). -/
def customAlphabetString (key : Text) (s : State) : ProcResult Text :=
  andThen (callAll (loadKeyCommands key ++ [.kabuild]) s) fun _ t => callAll (ringValues.map .kard) t

end Sys2Proof.Machine
end

