-- ==== Sys2Proof/Safety.lean ====
section
/-! DEFINITION. What the statements speak of: the invariants of 10_state.md R37, the read and write matrix of
R40, the error table of 60_exceptions.md R282, and when two states are the same to the host. -/

namespace Sys2Proof.Machine

/-- "a permutation of 0..31" (R29, R30). -/
def IsPermutation (T : Table) : Prop := T.toList.Perm ringValues

/-- The invariants of 10_state.md R37, (a) to (f). -/
structure EngineInv (s : State) : Prop where
  /-- (a) -/
  klen_le : s.klen.toNat ≤ 32
  /-- (a) -/
  bcnt_le : s.bcnt.toNat ≤ 4
  /-- (b) -/
  ka_perm : s.kav = true → IsPermutation s.ka
  /-- (c) -/
  tt_perm : s.ttv = true → IsPermutation s.tt
  /-- (c) -/
  key_members : s.ttv = true → ∀ e ∈ loadedKey s, e.m = true
  /-- (d) -/
  kidx_lt : s.ttv = true → 1 ≤ s.klen.toNat → s.kidx.toNat < s.klen.toNat
  /-- (e), for the entries that are meaningful (R28, log 11). -/
  key_sentinel : ∀ e ∈ loadedKey s, e.m = false → e.v = 0
  /-- (f) -/
  not_faulted : s.flt = false

/-- R37 speaks of the states reachable from reset: it is claimed of every state but those between power-on and
the first reset (R320). -/
def Inv (s : State) : Prop := s.awaitingReset = false → EngineInv s

/-- The error codes that are ever produced (60_exceptions.md R281: 9 to 14 are not). -/
def producedCodes : List (BitVec 4) := [1, 2, 3, 4, 5, 6, 7, 8, 15]

/-- The response a command gave: the last one in the state it leaves. -/
def lastResponse (t : State) : Option Response := t.responses.getLast?

/-- The errors of its own that each command can answer (60_exceptions.md R282), `fatal` where the table marks
it. -/
def ownErrors : Instr → List Err
  | .nop | .sreset | .rdcr _ | .clre => []
  | .getc _ | .getv _ | .isv _ | .add _ _ | .sub _ _ => []
  | .kclr | .setsh _ => []
  | .kpush _ => [.keyovf]
  | .kabuild => []
  | .kard _ => [.noka]
  | .menc _ | .mdec _ => [.noka, .fatal]
  | .tbuild => [.keysym]
  | .trd _ => [.nott]
  | .tshift _ _ => [.nott, .fatal]
  | .penc _ | .pdec _ => [.nott, .fatal]
  | .sbx _ | .sbxi _ | .bclr => []
  | .bpush _ => [.blklen]
  | .bpop => [.empty]
  | .sbapp | .sbinv => [.blklen]
  | .sbkapp | .sbkinv => [.keylen, .blklen]

/-- The columns of the matrix of 10_state.md R40. -/
inductive Elem where
  | key | klen | shift | ka | kav | tt | ttv | kidx | bias | blk | bcnt
  deriving DecidableEq, Repr

/-- The elements marked `w` or `rw` for a command in R40. -/
def writes : Instr → List Elem
  | .getc _ | .getv _ | .isv _ | .add _ _ | .sub _ _ | .sbx _ | .sbxi _ | .nop => []
  | .kclr => [.klen, .kav, .ttv]
  | .kpush _ => [.key, .klen, .kav, .ttv]
  | .setsh _ => [.shift]
  | .kabuild => [.ka, .kav]
  | .kard _ | .menc _ | .mdec _ => []
  | .tbuild => [.tt, .ttv, .kidx, .bias]
  | .trd _ => []
  | .tshift _ _ => [.tt]
  | .penc _ | .pdec _ => [.tt, .kidx, .bias]
  | .bclr => [.bcnt]
  | .bpush _ | .bpop => [.blk, .bcnt]
  | .sbapp | .sbinv | .sbkapp | .sbkinv => [.blk]
  | .rdcr _ | .clre => []
  | .sreset => [.key, .klen, .shift, .ka, .kav, .tt, .ttv, .kidx, .bias, .blk, .bcnt]

/-- The elements marked `r` or `rw` for a command in R40. -/
def reads : Instr → List Elem
  | .getc _ | .getv _ | .isv _ | .add _ _ | .sub _ _ | .sbx _ | .sbxi _ | .nop => []
  | .kclr | .setsh _ | .bclr | .clre | .sreset => []
  | .kpush _ => [.klen]
  | .kabuild => [.key, .klen]
  | .kard _ => [.ka, .kav]
  | .menc _ | .mdec _ => [.klen, .shift, .ka, .kav]
  | .tbuild => [.key, .klen]
  | .trd _ => [.tt, .ttv]
  | .tshift _ _ => [.tt, .ttv]
  | .penc _ | .pdec _ => [.key, .klen, .shift, .tt, .ttv, .kidx, .bias]
  | .bpush _ => [.bcnt]
  | .bpop => [.blk, .bcnt]
  | .sbapp | .sbinv => [.blk, .bcnt]
  | .sbkapp | .sbkinv => [.key, .klen, .blk, .bcnt]
  | .rdcr _ => [.klen, .shift, .kav, .ttv, .kidx, .bias, .bcnt]

/-- Two states hold the same in one element. -/
def SameElem (e : Elem) (s t : State) : Prop :=
  match e with
  | .key => s.key = t.key
  | .klen => s.klen = t.klen
  | .shift => s.shift = t.shift
  | .ka => s.ka = t.ka
  | .kav => s.kav = t.kav
  | .tt => s.tt = t.tt
  | .ttv => s.ttv = t.ttv
  | .kidx => s.kidx = t.kidx
  | .bias => s.bias = t.bias
  | .blk => s.blk = t.blk
  | .bcnt => s.bcnt = t.bcnt

/-- The opcodes R95 does not list, as R96 writes their ranges. -/
def unlistedOpcode (op : Nat) : Bool :=
  decide (0x04 ≤ op ∧ op ≤ 0x0F) || decide (0x15 ≤ op ∧ op ≤ 0x1F) || decide (0x23 ≤ op ∧ op ≤ 0x2F) ||
    decide (0x34 ≤ op ∧ op ≤ 0x3F) || decide (0x45 ≤ op ∧ op ≤ 0x4F) || decide (0x59 ≤ op ∧ op ≤ 0xFF)

/-- The reset values that 10_state.md R36 states (all but the arrays, which it leaves unspecified). -/
structure HasResetValues (s : State) : Prop where
  klen : s.klen = 0
  shift : s.shift = 8
  kav : s.kav = false
  ttv : s.ttv = false
  kidx : s.kidx = 0
  bias : s.bias = 0
  bcnt : s.bcnt = 0
  flt : s.flt = false
  estk : s.estk = false
  elast : s.elast = 0

/-- What R32, R281 and R289 say of the error registers: both clear, or `ESTK` set with a code that is
produced; and in the fault state the code is 15. -/
structure ErrorFlagsLegal (s : State) : Prop where
  code : (s.estk = false ∧ s.elast = 0) ∨ (s.estk = true ∧ s.elast ∈ producedCodes)
  fault : s.flt = true → s.estk = true ∧ s.elast = 15

/-- `j` is the least index with `A[j] == v` (`index_of`, 00_scope.md R14). -/
def IsFirstIndex (A : Table) (v j : RingVal) : Prop := entry A j = v ∧ ∀ k : RingVal, k < j → entry A k ≠ v

/-- `p` is "the least j in bias..31" (43_poly.md R183), with `bias = lo`, whose entry satisfies `f`. -/
def IsFirstFrom (T : Table) (lo : Nat) (f : RingVal → Prop) (p : Nat) : Prop :=
  lo ≤ p ∧ p < 32 ∧ f (T.toList.getD p 0) ∧ ∀ j : Nat, lo ≤ j → j < p → ¬ f (T.toList.getD j 0)

/-- The member symbols of a key, in order (R160: non-members are discarded). -/
def memberValues (K : List KeyEntry) : List RingVal := (K.filter fun e => e.m).map fun e => e.v

/-- Two states hold the same in everything that is meaningful: all scalars, the loaded key, a table whose valid
bit is set, and the block entries below `BCNT` (R28 to R31; 93 U3 lists the rest). -/
structure SameContents (s t : State) : Prop where
  klen : s.klen = t.klen
  shift : s.shift = t.shift
  kav : s.kav = t.kav
  ttv : s.ttv = t.ttv
  kidx : s.kidx = t.kidx
  bias : s.bias = t.bias
  bcnt : s.bcnt = t.bcnt
  flt : s.flt = t.flt
  estk : s.estk = t.estk
  elast : s.elast = t.elast
  key : loadedKey s = loadedKey t
  ka : s.kav = true → s.ka = t.ka
  tt : s.ttv = true → s.tt = t.tt
  blk : s.blk.toList.take s.bcnt.toNat = t.blk.toList.take t.bcnt.toNat

/-- Two states are the same to the host: the engines were built with the same glyph table, the same was sent and
answered, and, once the engine has been reset, they hold the same meaningful contents. -/
structure SameToHost (s t : State) : Prop where
  glyphs : s.glyphs = t.glyphs
  inputs : s.inputs = t.inputs
  responses : s.responses = t.responses
  awaiting : s.awaitingReset = t.awaitingReset
  contents : s.awaitingReset = false → SameContents s t

/-- The host may run a procedure: the engine has been reset and is not in the fault state (R260). -/
def Ready (s : State) : Prop := s.awaitingReset = false ∧ s.flt = false

/-- A member in upper case, or a non-member: what a substitution gives back as it was (R263). -/
def UpperOrNonMember (g : GlyphTable) (ch : CharWord) : Prop :=
  (classify g ch).m = true → glyph g (val g ch) = ch

/-- A member's upper-case glyph; a non-member as it is (R273). -/
def upperCase (g : GlyphTable) (ch : CharWord) : CharWord :=
  if (classify g ch).m then glyph g (val g ch) else ch

/-! ### The properties of the monoalphabetic cipher (42_keyed_alphabet_mono.md R165) -/

/-- R165(a): "`kabuild` always returns a permutation of `0..31`". -/
def KabuildPermutes : Prop := ∀ K : List KeyEntry, (kabuild K).Perm ringValues

/-- R165(b) in the state `s`: MENC answers some `y`, and MDEC answers `y` with the symbol again, upper-cased. -/
def MonoRoundTrips (s : State) : Prop :=
  ∀ ch : CharWord, ∃ (t u : State) (y : CharWord),
    exec (.menc ch) s = .next t ∧ t.responses = s.responses ++ [⟨0, y⟩] ∧
    exec (.mdec y) t = .next u ∧ u.responses = t.responses ++ [⟨0, upperCase s.glyphs ch⟩]

/-- R165(c) in the state `s`: MENC and MDEC return their operand. -/
def MonoIsIdentity (s : State) : Prop :=
  ∀ ch : CharWord, exec (.menc ch) s = .next (answer 0 ch s) ∧ exec (.mdec ch) s = .next (answer 0 ch s)

/-- R165(d): MENC and MDEC in the state `s` are the substitutions with the tables `enc` and `dec`, by ring value. -/
def MonoSubstitutes (enc dec : List RingVal) (s : State) : Prop :=
  ∀ v : RingVal,
    exec (.menc (glyph s.glyphs v)) s = .next (answer 0 (glyph s.glyphs (enc.getD v.toNat 0)) s) ∧
    exec (.mdec (glyph s.glyphs v)) s = .next (answer 0 (glyph s.glyphs (dec.getD v.toNat 0)) s)

/-- R165(e) in the state `s`: a MENC or MDEC that succeeds changes nothing but the responses. -/
def MonoKeepsState (s : State) : Prop :=
  ∀ (ch : CharWord) (t : State) (r : CharWord),
    (exec (.menc ch) s = .next t ∨ exec (.mdec ch) s = .next t) → t.responses = s.responses ++ [⟨0, r⟩] →
    t = answer 0 r s

/-- The key `КЛЮЧ` of the source's scenario, in ring values (42_keyed_alphabet_mono.md R166, R165(d)). -/
def sourceKey : List KeyEntry := [⟨true, 10⟩, ⟨true, 11⟩, ⟨true, 29⟩, ⟨true, 23⟩]

/-- `KA` for that key (R161). -/
def sourceAlphabet : List RingVal :=
  [10, 11, 29, 23, 0, 1, 2, 3, 4, 5, 6, 7, 8, 9, 12, 13,
   14, 15, 16, 17, 18, 19, 20, 21, 22, 24, 25, 26, 27, 28, 30, 31]

/-- The column `enc` of 95_test_vectors.md V12: that key with `SHIFT = 8`. -/
def sourceEnc : List RingVal :=
  [8, 9, 12, 13, 14, 15, 16, 17, 18, 19, 4, 5, 20, 21, 22, 24,
   25, 26, 27, 28, 30, 31, 10, 7, 11, 29, 23, 0, 1, 6, 2, 3]

/-- The column `dec` of 95_test_vectors.md V12. -/
def sourceDec : List RingVal :=
  [27, 28, 30, 31, 10, 11, 29, 23, 0, 1, 22, 24, 2, 3, 4, 5,
   6, 7, 8, 9, 12, 13, 14, 26, 15, 16, 17, 18, 19, 25, 20, 21]

end Sys2Proof.Machine
end

