-- ==== Sys2Proof/Certificates/Slice0/Obligations.lean ====
section
/-! DEFINITION. The statements for the provers. Each formalises the rules its docstring names. -/

open Sys2Proof Sys2Proof.Machine

/-! ### Encoding (30_encoding.md) -/

/-- Every command is within its fields, its word is one a host should send, and the decoder reads it back
(R91, R94, R95). -/
def Obligations.DecodeEncodeRoundTrip : Prop :=
  ∀ i : Instr, i.wellFormed = true ∧ wordWellFormed (encode i) = true ∧ decode (encode i) = some i

/-- A word that decodes is the encoding of what it decodes to exactly when its ignored bits are zero (R97). -/
def Obligations.CanonicalWordEncodesBack : Prop :=
  ∀ (w : CmdWord) (i : Instr), decode w = some i → (wordWellFormed w = true ↔ encode i = w)

/-- R96: the 226 unlisted opcodes, and only they, are illegal, and an illegal command answers E_ILLOP and
changes nothing but `ESTK` and `ELAST`. -/
def Obligations.UnlistedOpcodesAreIllegal : Prop :=
  (∀ w : CmdWord, decode w = none ↔ unlistedOpcode (opField w).toNat = true) ∧
  ((List.range 256).filter unlistedOpcode).length = 226 ∧
  ∀ (s : State) (w : CmdWord) (rest : List HostInput),
    s.inputs = .command w :: rest → s.awaitingReset = false → s.flt = false →
    unlistedOpcode (opField w).toNat = true →
    step s = .next { s with
      inputs := rest, estk := true, elast := 1, responses := s.responses ++ [⟨1, 0⟩] }

/-- R97: the bits of a word that its command does not use have no effect, and the opcode alone says which
command it is. -/
def Obligations.IgnoredBitsHaveNoEffect : Prop :=
  (∀ (w w' : CmdWord) (ua ub : OperandUse),
    operandUses (opField w) = some (ua, ub) → opField w' = opField w →
    aField w' &&& ua.mask = aField w &&& ua.mask → bField w' &&& ub.mask = bField w &&& ub.mask →
    decode w' = decode w) ∧
  ∀ (w w' : CmdWord) (i i' : Instr),
    decode w = some i → decode w' = some i' → (opField w = opField w' ↔ i.opcode = i'.opcode)

/-- Words written out in 95_test_vectors.md decode to the commands they stand for. -/
def Obligations.SpecWordsDecode : Prop :=
  decode 0x1304110410 = some (.add 0x0410 0x0411) ∧ decode 0x420004041A = some (.tshift 0x041A 4) ∧
  decode 0x00FFFFFFFF = some .nop ∧ decode 0x01FFFFFFFF = some .sreset ∧
  decode 0x0200000005 = some (.rdcr 1) ∧ decode 0x2200000028 = some (.setsh 8) ∧
  decode 0x310000001F = some (.kard 31) ∧ decode 0x430000041F = some (.penc 0x041F) ∧
  decode 0x5300000410 = some (.bpush 0x0410) ∧ decode 0x5900000000 = none

/-! ### The interface -/

/-- R90, R102: when the oldest input is a word that decodes to a command, the step is that command's meaning,
run with the word taken off the queue. -/
def Obligations.StepRunsDecodedCommand : Prop :=
  ∀ (s : State) (w : CmdWord) (rest : List HostInput) (i : Instr),
    s.inputs = .command w :: rest → s.awaitingReset = false → decode w = some i →
    step s = exec i { s with inputs := rest }

/-- R93: every command word the engine accepts produces exactly one response, after those given before, and
nothing else produces one. (A word sent before the first reset is not accepted: log 4.) -/
def Obligations.EveryCommandGetsOneResponse : Prop :=
  (∀ (s : State) (w : CmdWord) (rest : List HostInput),
    s.inputs = .command w :: rest → s.awaitingReset = false →
    ∃ (t : State) (r : Response),
      step s = .next t ∧ t.inputs = rest ∧ t.responses = s.responses ++ [r]) ∧
  ∀ s : State, (∀ (w : CmdWord) (rest : List HostInput), s.inputs ≠ .command w :: rest) →
    ∃ t : State, step s = .next t ∧ t.responses = s.responses

/-- R35, R320: `rst` gives the reset state, SRESET the same state with its response. That the unspecified arrays are the
same too, the next free draw in both, is the model's form (log 3). -/
def Obligations.RstAndSresetGiveTheSameState : Prop :=
  ∀ (s : State) (rest : List HostInput), s.inputs = .rst :: rest →
    ∃ t : State, step s = .next t ∧ HasResetValues t ∧ t.awaitingReset = false ∧
      t.inputs = rest ∧ t.responses = s.responses ∧
      exec .sreset { s with inputs := rest } = .next { t with responses := s.responses ++ [⟨0, 0⟩] }

/-- The model's form (log 4) of R320's last sentence and 93 U4: after power-on every command but SRESET, which is
itself a reset, is refused until a reset. -/
def Obligations.CommandsBeforeTheFirstResetAreRefused : Prop :=
  (∀ (s : State) (rest : List HostInput), s.inputs = .powerOn :: rest →
    ∃ t : State, step s = .next t ∧ t.awaitingReset = true ∧ t.inputs = rest ∧ t.responses = s.responses) ∧
  (∀ (s : State) (w : CmdWord) (rest : List HostInput),
    s.inputs = .command w :: rest → s.awaitingReset = true → decode w ≠ some .sreset →
    step s = .refused .commandBeforeReset) ∧
  (∀ (s : State) (w : CmdWord) (rest : List HostInput),
    s.inputs = .command w :: rest → s.awaitingReset = true → decode w = some .sreset →
    ∃ t : State, step s = .next t ∧ HasResetValues t ∧ t.awaitingReset = false ∧ t.inputs = rest ∧
      t.responses = s.responses ++ [⟨0, 0⟩]) ∧
  ∀ (s : State) (rest : List HostInput), s.inputs = .rst :: rest →
    ∃ t : State, step s = .next t ∧ t.awaitingReset = false

/-! ### Reset and invariants (10_state.md) -/

/-- R36, R321, R34: the scalars of the reset state, and the control registers that follow from them, whatever the glyph
table (R8); `State.reset` is the reset state with the default table (R9; PRESUMED, log 6). -/
def Obligations.ResetStateAsTheSpecSays : Prop :=
  (∀ g : GlyphTable, HasResetValues (State.resetFor g) ∧ controlRegister 0 (State.resetFor g) = 0x0000 ∧
    controlRegister 1 (State.resetFor g) = 0x0800 ∧ controlRegister 2 (State.resetFor g) = 0x0000 ∧
    controlRegister 3 (State.resetFor g) = 0x0000 ∧ (State.resetFor g).glyphs = g) ∧
  State.reset = State.resetFor defaultGlyphs

/-- The invariants of R37 hold in the reset state, and its error registers are legal, whatever the glyph table. -/
def Obligations.ResetSatisfiesTheInvariants : Prop :=
  (∀ g : GlyphTable, Inv (State.resetFor g) ∧ ErrorFlagsLegal (State.resetFor g)) ∧ Inv State.reset ∧
  ErrorFlagsLegal State.reset

/-- Every step, a reset or power-on among them, keeps the invariants of R37; and every step, in every state, keeps the
glyph table the engine was built with (R8, R33). -/
def Obligations.StepKeepsTheInvariants : Prop :=
  (∀ s t : State, Inv s → step s = .next t → Inv t) ∧ ∀ s t : State, step s = .next t → t.glyphs = s.glyphs

/-- R37(f), R288: where the invariants hold, no command answers E_FATAL or enters the fault state. -/
def Obligations.FatalErrorIsUnreachable : Prop :=
  ∀ (i : Instr) (s : State), EngineInv s →
    ∃ (t : State) (r : Response), exec i s = .next t ∧ t.responses = s.responses ++ [r] ∧
      r.e ≠ 15 ∧ t.flt = false

/-- R32, R281, R289: every step keeps the error registers legal. -/
def Obligations.StepKeepsErrorFlagsLegal : Prop :=
  ∀ s t : State, (s.awaitingReset = false → ErrorFlagsLegal s) → step s = .next t →
    (t.awaitingReset = false → ErrorFlagsLegal t)

/-- R36, R38, 93 U3, in the model's form of "unspecified" (log 3): what is unspecified cannot be observed: from two
states that differ only in it, one input gives the same response and again states that differ only in it. -/
def Obligations.UnspecifiedContentsAreUnobservable : Prop :=
  ∀ s s' : State, Inv s → Inv s' → SameToHost s s' →
    (∀ t : State, step s = .next t → ∃ t' : State, step s' = .next t' ∧ SameToHost t t') ∧
    ∀ r : Refusal, step s = .refused r → step s' = .refused r

/-! ### Errors (60_exceptions.md) -/

/-- R289: in the fault state every command but SRESET and RDCR, and every illegal word, answers E_FATAL and
changes no state; RDCR works and shows the fault; what sets `FLT` sets `ESTK` and `ELAST` to 1 and 15; SRESET and
`rst` are the only way out (of an engine that keeps its power). -/
def Obligations.FaultStateRefusesCommands : Prop :=
  (∀ (i : Instr) (s : State), s.flt = true → i ≠ .sreset → (∀ n, i ≠ .rdcr n) →
    exec i s = .next { s with responses := s.responses ++ [⟨15, 0⟩] }) ∧
  (∀ (s : State) (w : CmdWord) (rest : List HostInput),
    s.inputs = .command w :: rest → s.awaitingReset = false → s.flt = true → decode w = none →
    step s = .next { s with inputs := rest, responses := s.responses ++ [⟨15, 0⟩] }) ∧
  (∀ (n : BitVec 2) (s : State), s.flt = true →
    exec (.rdcr n) s = .next { s with responses := s.responses ++ [⟨0, controlRegister n s⟩] }) ∧
  (∀ s : State, s.flt = true → s.estk = true → s.elast = 15 →
    cr0 s = 0x00FC ||| BitVec.setWidth 16 (BitVec.ofBool s.kav) |||
      (BitVec.setWidth 16 (BitVec.ofBool s.ttv) <<< 1)) ∧
  (∀ (i : Instr) (s t : State), s.flt = true → exec i s = .next t → (t.flt = false ↔ i = .sreset)) ∧
  (∀ (i : Instr) (s t : State), s.flt = false → exec i s = .next t → t.flt = true →
    t.estk = true ∧ t.elast = 15) ∧
  ∀ s t : State, s.flt = true → s.awaitingReset = false → (∀ rest, s.inputs ≠ .powerOn :: rest) →
    step s = .next t →
    (t.flt = false ↔ (∃ rest, s.inputs = .rst :: rest) ∨
      ∃ w rest, s.inputs = .command w :: rest ∧ decode w = some .sreset)

/-- R283, R288: a command or an illegal word that answers an error answers `r = 0`, sets `ESTK` and `ELAST` (and
`FLT` for the fatal one) and changes nothing else. -/
def Obligations.ErrorsChangeOnlyTheErrorRegisters : Prop :=
  (∀ (i : Instr) (s t : State) (r : Response),
    s.flt = false → exec i s = .next t → t.responses = s.responses ++ [r] → r.e ≠ 0 →
    r.r = 0 ∧
    t = { s with
      flt := decide (r.e = 15), estk := true, elast := r.e, responses := s.responses ++ [⟨r.e, 0⟩] }) ∧
  ∀ (s t : State) (w : CmdWord) (rest : List HostInput) (r : Response),
    s.inputs = .command w :: rest → s.awaitingReset = false → s.flt = false → step s = .next t →
    t.responses = s.responses ++ [r] → r.e ≠ 0 →
    r.r = 0 ∧
    t = { s with
      inputs := rest, flt := decide (r.e = 15), estk := true, elast := r.e,
      responses := s.responses ++ [⟨r.e, 0⟩] }

/-- R282: outside the fault state a command answers success or an error of its own row of the table. -/
def Obligations.EachCommandAnswersOnlyItsErrors : Prop :=
  ∀ (i : Instr) (s t : State) (r : Response),
    s.flt = false → exec i s = .next t → t.responses = s.responses ++ [r] →
    r.e = 0 ∨ ∃ x ∈ ownErrors i, r.e = errCode x

/-- R287: a successful command other than CLRE and SRESET leaves the sticky error registers as they are. -/
def Obligations.ErrorRegistersAreSticky : Prop :=
  ∀ (i : Instr) (s t : State) (r : Response),
    exec i s = .next t → t.responses = s.responses ++ [r] → r.e = 0 → i ≠ .clre → i ≠ .sreset →
    t.estk = s.estk ∧ t.elast = s.elast

/-- R40: a command changes no element its row does not mark as written, and nothing of the interface but the
response it adds. -/
def Obligations.WriteMatrixHolds : Prop :=
  ∀ (i : Instr) (s t : State), exec i s = .next t →
    (∀ e : Elem, e ∉ writes i → SameElem e s t) ∧ t.inputs = s.inputs ∧ t.glyphs = s.glyphs ∧
    (i ≠ .sreset → t.awaitingReset = s.awaitingReset ∧ t.draws = s.draws) ∧
    ∃ r : Response, t.responses = s.responses ++ [r]

/-- R40: the response of a command depends on nothing but its operands, `FLT`, the elements its row marks as read (RDCR
reads `ESTK` and `ELAST` too: R32) and the constant glyph table (R33). -/
def Obligations.ReadMatrixHolds : Prop :=
  ∀ (i : Instr) (s s' t t' : State) (r r' : Response),
    (∀ e ∈ reads i, SameElem e s s') → s.flt = s'.flt → s.glyphs = s'.glyphs →
    ((∃ n, i = .rdcr n) → s.estk = s'.estk ∧ s.elast = s'.elast) →
    exec i s = .next t → exec i s' = .next t' →
    t.responses = s.responses ++ [r] → t'.responses = s'.responses ++ [r'] → r = r'

/-! ### System commands (45_system.md) -/

/-- R240: NOP answers 0 and changes nothing; the all-zero word is NOP; in the fault state it answers E_FATAL. -/
def Obligations.NopDoesNothing : Prop :=
  decode 0x0000000000 = some .nop ∧
  (∀ s : State, s.flt = false → exec .nop s = .next { s with responses := s.responses ++ [⟨0, 0⟩] }) ∧
  ∀ s : State, s.flt = true → exec .nop s = .next { s with responses := s.responses ++ [⟨15, 0⟩] }

/-- R241: SRESET gives every state element its reset value, in the fault state too; no other command clears `FLT`.
That the unspecified arrays take the free draw of this reset, whatever they held, is the model's form (log 3). -/
def Obligations.SresetResetsTheEngine : Prop :=
  (∀ s : State, ∃ t : State, exec .sreset s = .next t ∧ HasResetValues t ∧
    t.responses = s.responses ++ [⟨0, 0⟩] ∧ t.inputs = s.inputs ∧
    t.key = freeKey (s.draws + 1) ∧ t.ka = freeKa (s.draws + 1) ∧ t.tt = freeTt (s.draws + 1) ∧
    t.blk = freeBlk (s.draws + 1) ∧
    controlRegister 0 t = 0x0000 ∧ controlRegister 1 t = 0x0800 ∧ controlRegister 2 t = 0x0000) ∧
  ∀ (i : Instr) (s t : State), s.flt = true → exec i s = .next t → t.flt = false → i = .sreset

/-- R242, R34: RDCR answers the register, in the fault state too, and changes nothing; each register shows its
fields in their bits and zeros elsewhere, and `CR3` is zero. -/
def Obligations.RdcrReadsTheControlRegisters : Prop :=
  (∀ (n : BitVec 2) (s : State),
    exec (.rdcr n) s = .next { s with responses := s.responses ++ [⟨0, controlRegister n s⟩] }) ∧
  (∀ a b : BitVec 16, decodeFields 0x02 a b = some (.rdcr (BitVec.ofNat 2 a.toNat))) ∧
  (∀ s : State,
    (controlRegister 0 s).toNat = s.kav.toNat + 2 * s.ttv.toNat + 4 * s.flt.toNat + 8 * s.estk.toNat +
      16 * s.elast.toNat ∧
    (controlRegister 1 s).toNat = s.klen.toNat + 256 * s.shift.toNat ∧
    (controlRegister 2 s).toNat = s.kidx.toNat + 256 * s.bias.toNat + 8192 * s.bcnt.toNat ∧
    controlRegister 3 s = 0)

/-- R243: CLRE clears `ESTK` and `ELAST` and nothing else; in the fault state it answers E_FATAL and clears
nothing; the rule's example. -/
def Obligations.ClreAcknowledgesAnError : Prop :=
  (∀ s : State, s.flt = false →
    exec .clre s = .next { s with estk := false, elast := 0, responses := s.responses ++ [⟨0, 0⟩] }) ∧
  (∀ s : State, s.flt = true → exec .clre s = .next { s with responses := s.responses ++ [⟨15, 0⟩] }) ∧
  ∀ s : State, s.flt = false → s.bcnt = 0 →
    ∃ t u : State, exec .bpop s = .next t ∧ cr0 t &&& 0xF8 = 0x68 ∧ exec .clre t = .next u ∧
      cr0 u &&& 0xF8 = 0

/-! ### Ring unit (40_ring.md) -/

/-- R122: GETC answers the upper-case glyph of its operand modulo 32. -/
def Obligations.GetcAnswersTheGlyph : Prop :=
  (∀ a b : BitVec 16, decodeFields 0x10 a b = some (.getc (BitVec.ofNat 5 (a.toNat % 32)))) ∧
  ∀ (v : RingVal) (s : State), s.flt = false →
    exec (.getc v) s = .next { s with responses := s.responses ++ [⟨0, s.glyphs.upAt v⟩] }

/-- R121, R123: for a glyph of `v`, upper or lower case, GETV answers `v` and ISV 1; for a character word that is
no glyph both answer 0, without an error. -/
def Obligations.GetvAndIsvLookUpTheSymbol : Prop :=
  (∀ (ch : CharWord) (v : RingVal) (s : State), s.flt = false → s.glyphs.Valid →
    s.glyphs.hasGlyph v ch = true →
    exec (.getv ch) s = .next { s with responses := s.responses ++ [⟨0, BitVec.ofNat 16 v.toNat⟩] } ∧
    exec (.isv ch) s = .next { s with responses := s.responses ++ [⟨0, 1⟩] }) ∧
  ∀ (ch : CharWord) (s : State), s.flt = false → (∀ v, s.glyphs.hasGlyph v ch = false) →
    exec (.getv ch) s = .next { s with responses := s.responses ++ [⟨0, 0⟩] } ∧
    exec (.isv ch) s = .next { s with responses := s.responses ++ [⟨0, 0⟩] }

/-- R124, R125: ADD and SUB answer the glyph of the sum and the difference of the two values modulo 32, where a
non-member counts 0. -/
def Obligations.AddAndSubWorkModulo32 : Prop :=
  ∀ (c1 c2 : CharWord) (s : State), s.flt = false →
    exec (.add c1 c2) s = .next { s with
      responses := s.responses ++ [⟨0, glyph s.glyphs
        (BitVec.ofNat 5 (((val s.glyphs c1).toNat + (val s.glyphs c2).toNat) % 32))⟩] } ∧
    exec (.sub c1 c2) s = .next { s with
      responses := s.responses ++
        [⟨0, glyph s.glyphs
          (BitVec.ofInt 5 (((val s.glyphs c1).toNat - (val s.glyphs c2).toNat : Int) % 32))⟩] }

/-- R126: ADD, then SUB of the same symbol from the result, answers the symbol again. -/
def Obligations.SubUndoesAdd : Prop :=
  ∀ (x y : CharWord) (s : State), s.flt = false → s.glyphs.Valid →
    ∃ (t : State) (z : CharWord), exec (.add x y) s = .next t ∧ t.responses = s.responses ++ [⟨0, z⟩] ∧
      exec (.sub z y) t = .next { s with
        responses := s.responses ++ [⟨0, z⟩, ⟨0, glyph s.glyphs (val s.glyphs x)⟩] }

/-- R14 over any glyph table that satisfies R8: a character word classifies as a member with the one value it
is a glyph of, and as the non-member `{0, 0}` when it is none; the upper-case glyph of a value classifies to it. -/
def Obligations.ClassifyFollowsAnyValidGlyphTable : Prop :=
  ∀ g : GlyphTable, g.Valid →
    (∀ (ch : CharWord) (v : RingVal), classify g ch = ⟨true, v⟩ ↔ g.hasGlyph v ch = true) ∧
    (∀ ch : CharWord, (∀ v, g.hasGlyph v ch = false) → classify g ch = ⟨false, 0⟩) ∧
    ∀ v : RingVal, classify g (g.upAt v) = ⟨true, v⟩

/-- The default glyph table of R9 (PRESUMED, log 6) satisfies the constraint of R8; every glyph table an engine can be
built with holds the five glyphs R8 fixes at their places, as the code points R9 gives them. -/
def Obligations.DefaultGlyphTableIsValid : Prop :=
  State.reset.glyphs = defaultGlyphs ∧ defaultGlyphs.Valid ∧ defaultGlyphs.loAt 31 = none ∧
  ∀ g : GlyphTable, g.upAt 0 = 0x0410 ∧ g.upAt 1 = 0x0411 ∧ g.upAt 2 = 0x0412 ∧ g.upAt 30 = 0x042F ∧
    g.upAt 31 = 0x005F

/-! ### Key and shift loading (41_key.md) -/

/-- R140: KCLR empties the key and clears both valid bits; all else, the key entries among it, is unchanged. -/
def Obligations.KclrStartsANewKey : Prop :=
  (∀ s : State, s.flt = false →
    exec .kclr s = .next { s with
      klen := 0, kav := false, ttv := false, responses := s.responses ++ [⟨0, 0⟩] }) ∧
  ∀ s t : State, s.flt = false → s.shift = 8 → exec .kclr s = .next t → controlRegister 1 t = 0x0800

/-- R141: KPUSH stores the classified character at `KEY[KLEN]`, counts it and clears both valid bits; with 32
loaded it answers E_KEYOVF and changes nothing else. A lower-case glyph is stored as its upper-case one is, a
non-member as `{0, 0}`. -/
def Obligations.KpushAppendsOneCharacter : Prop :=
  (∀ (ch : CharWord) (s : State) (h : s.klen.toNat < 32), s.flt = false →
    exec (.kpush ch) s = .next { s with
      key := s.key.set s.klen.toNat (classify s.glyphs ch) h, klen := s.klen + 1, kav := false, ttv := false,
      responses := s.responses ++ [⟨0, 0⟩] }) ∧
  (∀ (ch : CharWord) (s : State), s.flt = false → s.klen = 32 →
    exec (.kpush ch) s = .next { s with
      estk := true, elast := 7, responses := s.responses ++ [⟨7, 0⟩] }) ∧
  (∀ (g : GlyphTable) (v : RingVal) (ch : CharWord), g.Valid → g.loAt v = some ch →
    classify g ch = classify g (g.upAt v)) ∧
  ∀ (g : GlyphTable) (ch : CharWord), (∀ v, g.hasGlyph v ch = false) → classify g ch = ⟨false, 0⟩

/-- R142: SETSH sets the shift constant to its operand modulo 32 and changes nothing else; the low 16 bits of an
integer's two's complement load the integer modulo 32. -/
def Obligations.SetshSetsTheShift : Prop :=
  (∀ a b : BitVec 16, decodeFields 0x22 a b = some (.setsh (BitVec.ofNat 5 (a.toNat % 32)))) ∧
  (∀ (n : Int) (b : BitVec 16),
    decodeFields 0x22 (BitVec.ofInt 16 n) b = some (.setsh (BitVec.ofInt 5 (n % 32)))) ∧
  ∀ (v : RingVal) (s : State), s.flt = false →
    exec (.setsh v) s = .next { s with shift := v, responses := s.responses ++ [⟨0, 0⟩] }

/-- R261, R143, R144: LOADKEY loads the classified characters of a key of at most 32, members and non-members
alike counted, with both valid bits clear; a longer key stops it with E_KEYOVF. -/
def Obligations.LoadkeyLoadsTheClassifiedKey : Prop :=
  ∀ (key : Text) (s : State), Ready s →
    (key.length ≤ 32 → ∃ (ys : Text) (t : State), callAll (loadKeyCommands key) s = (.ok ys, t) ∧
      t.klen.toNat = key.length ∧ loadedKey t = key.map (classify s.glyphs) ∧ t.kav = false ∧ t.ttv = false) ∧
    (32 < key.length → ∃ t : State, callAll (loadKeyCommands key) s = (.error (.engine 7), t))

/-! ### Keyed alphabet unit (42_keyed_alphabet_mono.md) -/

/-- R160, R165(a): `kabuild` gives the members of the key in the order first seen, then the rest in ring order; the
result is a permutation of the ring. -/
def Obligations.KabuildKeepsFirstOccurrences : Prop :=
  ∀ K : List KeyEntry,
    kabuild K = (memberValues K).eraseDups ++ ringValues.filter (fun v => decide (v ∉ memberValues K)) ∧
    (kabuild K).Perm ringValues

/-- R161: KABUILD stores the 32 values `kabuild` gives for the loaded key, sets `KAV` and changes nothing else. -/
def Obligations.KabuildBuildsTheKeyedAlphabet : Prop :=
  ∀ s : State, s.flt = false →
    ∃ T : Table, T.toList = kabuild (loadedKey s) ∧
      exec .kabuild s = .next { s with ka := T, kav := true, responses := s.responses ++ [⟨0, 0⟩] }

/-- R162, R184: KARD and TRD answer the glyph of the entry they name (the index modulo 32), or E_NOKA and E_NOTT
while the table is not valid; neither changes a table. -/
def Obligations.KardAndTrdReadOneEntry : Prop :=
  (∀ a b : BitVec 16, decodeFields 0x31 a b = some (.kard (BitVec.ofNat 5 (a.toNat % 32))) ∧
    decodeFields 0x41 a b = some (.trd (BitVec.ofNat 5 (a.toNat % 32)))) ∧
  ∀ (j : RingVal) (s : State), s.flt = false →
    (s.kav = true →
      exec (.kard j) s = .next { s with responses := s.responses ++ [⟨0, glyph s.glyphs (entry s.ka j)⟩] }) ∧
    (s.kav = false →
      exec (.kard j) s = .next { s with
        estk := true, elast := 4, responses := s.responses ++ [⟨4, 0⟩] }) ∧
    (s.ttv = true →
      exec (.trd j) s = .next { s with responses := s.responses ++ [⟨0, glyph s.glyphs (entry s.tt j)⟩] }) ∧
    (s.ttv = false →
      exec (.trd j) s = .next { s with
        estk := true, elast := 5, responses := s.responses ++ [⟨5, 0⟩] })

/-- R163, R164: MENC and MDEC: the empty-key bypass, then the valid bit, then the pass-through, then the
substitution from the least index of the symbol, `SHIFT` places on or back; `fatal` when it has none. -/
def Obligations.MencAndMdecSubstitute : Prop :=
  ∀ (ch : CharWord) (s : State), s.flt = false →
    (s.klen = 0 →
      exec (.menc ch) s = .next { s with responses := s.responses ++ [⟨0, ch⟩] } ∧
      exec (.mdec ch) s = .next { s with responses := s.responses ++ [⟨0, ch⟩] }) ∧
    (s.klen ≠ 0 → s.kav = false →
      exec (.menc ch) s = .next { s with estk := true, elast := 4, responses := s.responses ++ [⟨4, 0⟩] } ∧
      exec (.mdec ch) s = .next { s with estk := true, elast := 4, responses := s.responses ++ [⟨4, 0⟩] }) ∧
    (s.klen ≠ 0 → s.kav = true → (classify s.glyphs ch).m = false →
      exec (.menc ch) s = .next { s with responses := s.responses ++ [⟨0, ch⟩] } ∧
      exec (.mdec ch) s = .next { s with responses := s.responses ++ [⟨0, ch⟩] }) ∧
    (∀ j : RingVal, s.klen ≠ 0 → s.kav = true → (classify s.glyphs ch).m = true →
      IsFirstIndex s.ka (val s.glyphs ch) j →
      exec (.menc ch) s = .next { s with
        responses := s.responses ++ [⟨0, glyph s.glyphs (entry s.ka (j + s.shift))⟩] } ∧
      exec (.mdec ch) s = .next { s with
        responses := s.responses ++ [⟨0, glyph s.glyphs (entry s.ka (j - s.shift))⟩] }) ∧
    (s.klen ≠ 0 → s.kav = true → (classify s.glyphs ch).m = true →
      (∀ j : RingVal, entry s.ka j ≠ val s.glyphs ch) →
      exec (.menc ch) s = .next { s with
        flt := true, estk := true, elast := 15, responses := s.responses ++ [⟨15, 0⟩] } ∧
      exec (.mdec ch) s = .next { s with
        flt := true, estk := true, elast := 15, responses := s.responses ++ [⟨15, 0⟩] })

/-- R165, (a) to (e): `kabuild` permutes the ring and MENC and MDEC never enter the fault state; MDEC of what MENC
answered is the symbol again, upper-cased, for every key that is not empty and every shift, right after KABUILD and
wherever the invariants hold; with the empty key both return their operand (bit for bit, R163, a lower-case member
too); the source's scenario, key `КЛЮЧ` and shift 8, with the whole table of V12; a MENC or MDEC that succeeds changes
no state. (b) and (d) hold for every glyph table that meets the constraint of R8. -/
def Obligations.MdecUndoesMenc : Prop :=
  (KabuildPermutes ∧
    ∀ (s t : State) (ch : CharWord), EngineInv s →
      (exec (.menc ch) s = .next t ∨ exec (.mdec ch) s = .next t) → t.flt = false) ∧
  ((∀ s : State, EngineInv s → s.glyphs.Valid → s.klen ≠ 0 → s.kav = true → MonoRoundTrips s) ∧
    ∀ (s : State) (k : RingVal), s.flt = false → s.glyphs.Valid → s.klen ≠ 0 →
      ∃ t : State, exec .kabuild { s with shift := k } = .next t ∧ t.shift = k ∧ MonoRoundTrips t) ∧
  (∀ s : State, s.flt = false → s.klen = 0 → MonoIsIdentity s) ∧
  (∀ s : State, s.flt = false → s.glyphs.Valid → loadedKey s = sourceKey → s.shift = 8 →
    ∃ t : State, exec .kabuild s = .next t ∧ t.ka.toList = sourceAlphabet ∧
      MonoSubstitutes sourceEnc sourceDec t ∧ MonoRoundTrips t) ∧
  ∀ s : State, MonoKeepsState s

/-! ### Poly table unit (43_poly.md) -/

/-- R189(a), R182: `tbuild` gives a permutation of the ring for every key of members, and agrees with `kabuild`
when they are distinct. -/
def Obligations.TbuildGivesAPermutation : Prop :=
  ∀ K : List KeyEntry, (∀ e ∈ K, e.m = true) →
    (tbuild K).Perm ringValues ∧ ((memberValues K).Nodup → tbuild K = kabuild K)

/-- R181: `tbuild` places each key symbol, or the first ring successor of it that is not yet placed, then the rest in
ring order; of a longer key only the first 32 symbols count. -/
def Obligations.TbuildPlacesTheFirstFreeSuccessor : Prop :=
  (∀ K : List KeyEntry, K.length ≤ 32 →
    ∃ placed : List RingVal, placed.length = K.length ∧
      tbuild K = placed ++ ringValues.filter (fun v => decide (v ∉ placed)) ∧
      ∀ (j : Nat) (h : j < K.length), ∃ n : Nat,
        placed.getD j 0 = K[j].v + BitVec.ofNat 5 n ∧ placed.getD j 0 ∉ placed.take j ∧
        ∀ k : Nat, k < n → K[j].v + BitVec.ofNat 5 k ∈ placed.take j) ∧
  ∀ K : List KeyEntry, tbuild K = tbuild (K.take 32)

/-- R182: TBUILD stores the 32 values `tbuild` gives for an all-member key, with the text position at 0; with a
non-member in the key it answers E_KEYSYM and changes nothing else. -/
def Obligations.TbuildBuildsTheTable : Prop :=
  ∀ s : State, s.flt = false →
    ((∀ e ∈ loadedKey s, e.m = true) →
      ∃ T : Table, T.toList = tbuild (loadedKey s) ∧
        exec .tbuild s = .next { s with
          tt := T, kidx := 0, bias := BitVec.ofNat 5 (s.klen.toNat % 32), ttv := true,
          responses := s.responses ++ [⟨0, 0⟩] }) ∧
    ((∃ e ∈ loadedKey s, e.m = false) →
      exec .tbuild s = .next { s with
        estk := true, elast := 8, responses := s.responses ++ [⟨8, 0⟩] })

/-- R183: the table shift on any table: a member target is advanced to its first ring successor outside the head;
the pivot is that symbol's first place in the tail, or else the first tail symbol that the head lacks; the pivot
moves to the front; without a pivot the shift has no result. -/
def Obligations.TableShiftFollowsTheRule : Prop :=
  ∀ (T : Table) (t : KeyEntry) (bias : RingVal),
    ∃ n : Nat, n ≤ bias.toNat ∧ t.v + BitVec.ofNat 5 n ∉ T.toList.take bias.toNat ∧
      (∀ k : Nat, k < n → t.v + BitVec.ofNat 5 k ∈ T.toList.take bias.toNat) ∧
      let ofTarget : RingVal → Prop := fun x => t.m = true ∧ x = t.v + BitVec.ofNat 5 n
      let ofFallback : RingVal → Prop := fun x => x ∉ T.toList.take bias.toNat
      (∀ p : Nat,
        (IsFirstFrom T bias.toNat ofTarget p ∨
          ((∀ q, ¬ IsFirstFrom T bias.toNat ofTarget q) ∧ IsFirstFrom T bias.toNat ofFallback p)) →
        ∃ T' : Table, shiftTable T t bias = some (T', p) ∧
          T'.toList = T.toList.getD p 0 :: T.toList.eraseIdx p) ∧
      ((∀ q, ¬ IsFirstFrom T bias.toNat ofTarget q) → (∀ q, ¬ IsFirstFrom T bias.toNat ofFallback q) →
        shiftTable T t bias = none)

/-- R183, R189(b): on a permutation the shift finds a pivot in the tail and moves it to the front, so the result
is a permutation; a member target gives the first ring successor that is not in the head, a non-member the
first entry of the tail. -/
def Obligations.ShiftMovesThePivotToTheFront : Prop :=
  ∀ (T : Table) (t : KeyEntry) (bias : RingVal), IsPermutation T →
    ∃ (T' : Table) (p : Nat), shiftTable T t bias = some (T', p) ∧ bias.toNat ≤ p ∧ p < 32 ∧
      T'.toList = T.toList.getD p 0 :: T.toList.eraseIdx p ∧ IsPermutation T' ∧
      (t.m = false → p = bias.toNat) ∧
      (t.m = true → ∃ n : Nat, n ≤ bias.toNat ∧ T.toList.getD p 0 = t.v + BitVec.ofNat 5 n ∧
        ∀ k : Nat, k < n → t.v + BitVec.ofNat 5 k ∈ T.toList.take bias.toNat)

/-- R185: TSHIFT applies the shift to the table and answers the pivot, and changes nothing else; E_NOTT while the
table is not valid; `fatal` when the shift finds no pivot. -/
def Obligations.TshiftAppliesOneShift : Prop :=
  (∀ a b : BitVec 16, decodeFields 0x42 a b = some (.tshift a (BitVec.ofNat 5 (b.toNat % 32)))) ∧
  ∀ (target : CharWord) (bias : RingVal) (s : State), s.flt = false →
    (s.ttv = false →
      exec (.tshift target bias) s = .next { s with
        estk := true, elast := 5, responses := s.responses ++ [⟨5, 0⟩] }) ∧
    (∀ (T : Table) (p : Nat), s.ttv = true → shiftTable s.tt (classify s.glyphs target) bias = some (T, p) →
      exec (.tshift target bias) s = .next { s with
        tt := T, responses := s.responses ++ [⟨0, glyph s.glyphs (s.tt.toList.getD p 0)⟩] }) ∧
    (s.ttv = true → shiftTable s.tt (classify s.glyphs target) bias = none →
      exec (.tshift target bias) s = .next { s with
        flt := true, estk := true, elast := 15, responses := s.responses ++ [⟨15, 0⟩] })

/-- R186, R187, R188: PENC and PDEC: the empty-key bypass, then the valid bit, then a non-member (the position
moves, the table does not), then the substitution from the table before its shift by (KEY[KIDX], BIAS) and
the advance; `fatal` when the symbol has no index or the shift no pivot. -/
def Obligations.PencAndPdecTakeOneStep : Prop :=
  ∀ (ch : CharWord) (s : State), s.flt = false →
    (s.klen = 0 →
      exec (.penc ch) s = .next { s with responses := s.responses ++ [⟨0, ch⟩] } ∧
      exec (.pdec ch) s = .next { s with responses := s.responses ++ [⟨0, ch⟩] }) ∧
    (s.klen ≠ 0 → s.ttv = false →
      exec (.penc ch) s = .next { s with estk := true, elast := 5, responses := s.responses ++ [⟨5, 0⟩] } ∧
      exec (.pdec ch) s = .next { s with estk := true, elast := 5, responses := s.responses ++ [⟨5, 0⟩] }) ∧
    (s.klen ≠ 0 → s.ttv = true → (classify s.glyphs ch).m = false →
      exec (.penc ch) s = .next { s with
        kidx := BitVec.ofNat 5 ((s.kidx.toNat + 1) % s.klen.toNat), bias := s.bias + 1,
        responses := s.responses ++ [⟨0, ch⟩] } ∧
      exec (.pdec ch) s = .next { s with
        kidx := BitVec.ofNat 5 ((s.kidx.toNat + 1) % s.klen.toNat), bias := s.bias + 1,
        responses := s.responses ++ [⟨0, ch⟩] }) ∧
    (∀ (pos : RingVal) (T : Table) (p : Nat), s.klen ≠ 0 → s.ttv = true → (classify s.glyphs ch).m = true →
      IsFirstIndex s.tt (val s.glyphs ch) pos → shiftTable s.tt (entry s.key s.kidx) s.bias = some (T, p) →
      exec (.penc ch) s = .next { s with
        tt := T, kidx := BitVec.ofNat 5 ((s.kidx.toNat + 1) % s.klen.toNat), bias := s.bias + 1,
        responses := s.responses ++ [⟨0, glyph s.glyphs (entry s.tt (pos + s.shift))⟩] } ∧
      exec (.pdec ch) s = .next { s with
        tt := T, kidx := BitVec.ofNat 5 ((s.kidx.toNat + 1) % s.klen.toNat), bias := s.bias + 1,
        responses := s.responses ++ [⟨0, glyph s.glyphs (entry s.tt (pos - s.shift))⟩] }) ∧
    (s.klen ≠ 0 → s.ttv = true → (classify s.glyphs ch).m = true →
      ((∀ j : RingVal, entry s.tt j ≠ val s.glyphs ch) ∨ shiftTable s.tt (entry s.key s.kidx) s.bias = none) →
      exec (.penc ch) s = .next { s with
        flt := true, estk := true, elast := 15, responses := s.responses ++ [⟨15, 0⟩] } ∧
      exec (.pdec ch) s = .next { s with
        flt := true, estk := true, elast := 15, responses := s.responses ++ [⟨15, 0⟩] })

/-! ### S-block unit (44_sblock.md) -/

/-- R210, R211: the S-box and its inverse as the rules tabulate them, each the inverse of the other; R212, R213: SBX
and SBXI look them up. -/
def Obligations.SboxAndItsInverse : Prop :=
  ringValues.map sbox =
    [3, 10, 17, 24, 31, 6, 13, 20, 27, 2, 9, 16, 23, 30, 5, 12,
     19, 26, 1, 8, 15, 22, 29, 4, 11, 18, 25, 0, 7, 14, 21, 28] ∧
  ringValues.map isbox =
    [27, 18, 9, 0, 23, 14, 5, 28, 19, 10, 1, 24, 15, 6, 29, 20,
     11, 2, 25, 16, 7, 30, 21, 12, 3, 26, 17, 8, 31, 22, 13, 4] ∧
  (∀ v : RingVal, sbox v = BitVec.ofNat 5 ((v.toNat * 7 + 3) % 32) ∧ isbox (sbox v) = v ∧ sbox (isbox v) = v ∧
    isbox v = BitVec.ofInt 5 ((23 * ((v.toNat : Int) - 3)) % 32)) ∧
  (∀ a b : BitVec 16, decodeFields 0x50 a b = some (.sbx (BitVec.ofNat 5 (a.toNat % 32))) ∧
    decodeFields 0x51 a b = some (.sbxi (BitVec.ofNat 5 (a.toNat % 32)))) ∧
  ∀ (v : RingVal) (s : State), s.flt = false →
    exec (.sbx v) s = .next { s with responses := s.responses ++ [⟨0, BitVec.ofNat 16 (sbox v).toNat⟩] } ∧
    exec (.sbxi v) s = .next { s with responses := s.responses ++ [⟨0, BitVec.ofNat 16 (isbox v).toNat⟩] }

/-- R214, R215, R216: BCLR empties the block; BPUSH appends the word as given, or answers E_BLKLEN when four are
held; BPOP answers the first word and moves the others down (the places from `BCNT - 1` on are unspecified, R31),
or answers E_EMPTY. -/
def Obligations.BlockBufferIsAQueue : Prop :=
  (∀ s : State, s.flt = false →
    exec .bclr s = .next { s with bcnt := 0, responses := s.responses ++ [⟨0, 0⟩] }) ∧
  (∀ (ch : CharWord) (s : State) (h : s.bcnt.toNat < 4), s.flt = false →
    exec (.bpush ch) s = .next { s with
      blk := s.blk.set s.bcnt.toNat ch h, bcnt := s.bcnt + 1, responses := s.responses ++ [⟨0, 0⟩] }) ∧
  (∀ (ch : CharWord) (s : State), s.flt = false → s.bcnt = 4 →
    exec (.bpush ch) s = .next { s with estk := true, elast := 3, responses := s.responses ++ [⟨3, 0⟩] }) ∧
  (∀ s : State, s.flt = false → 1 ≤ s.bcnt.toNat → s.bcnt.toNat ≤ 4 →
    ∃ b : Block, exec .bpop s = .next { s with
        blk := b, bcnt := s.bcnt - 1, responses := s.responses ++ [⟨0, s.blk[0]⟩] } ∧
      b.toList.take (s.bcnt.toNat - 1) = (s.blk.toList.take s.bcnt.toNat).drop 1) ∧
  ∀ s : State, s.flt = false → s.bcnt = 0 →
    exec .bpop s = .next { s with estk := true, elast := 6, responses := s.responses ++ [⟨6, 0⟩] }

/-- R217, R218: SBAPP and SBINV transform the members of a block of four in place, lane by lane, and leave the
rest of the state alone; with another number of symbols they answer E_BLKLEN. -/
def Obligations.SbappAndSbinvTransformTheBlock : Prop :=
  ∀ s : State, s.flt = false →
    (s.bcnt = 4 → ∃ fwd bwd : Block,
      exec .sbapp s = .next { s with blk := fwd, responses := s.responses ++ [⟨0, 0⟩] } ∧
      exec .sbinv s = .next { s with blk := bwd, responses := s.responses ++ [⟨0, 0⟩] } ∧
      ∀ (i : Nat) (h : i < 4),
        ((classify s.glyphs s.blk[i]).m = false → fwd[i] = s.blk[i] ∧ bwd[i] = s.blk[i]) ∧
        ((classify s.glyphs s.blk[i]).m = true →
          fwd[i] = glyph s.glyphs (BitVec.ofNat 5 (((sbox (val s.glyphs s.blk[i])).toNat + 5 * i % 32) % 32)) ∧
          bwd[i] = glyph s.glyphs
            (isbox (BitVec.ofInt 5 (((val s.glyphs s.blk[i]).toNat - 5 * i % 32 : Int) % 32))))) ∧
    (s.bcnt ≠ 4 →
      exec .sbapp s = .next { s with estk := true, elast := 3, responses := s.responses ++ [⟨3, 0⟩] } ∧
      exec .sbinv s = .next { s with estk := true, elast := 3, responses := s.responses ++ [⟨3, 0⟩] })

/-- R219, R220: SBKAPP and SBKINV test the key length first (E_KEYLEN), then the block length (E_BLKLEN), then
transform the members of the block in place, lane by lane, with the key values of `KEY[0..3]`. -/
def Obligations.SbkappAndSbkinvTransformTheBlock : Prop :=
  ∀ s : State, s.flt = false →
    (s.klen = 16 → s.bcnt = 4 → ∃ fwd bwd : Block,
      exec .sbkapp s = .next { s with blk := fwd, responses := s.responses ++ [⟨0, 0⟩] } ∧
      exec .sbkinv s = .next { s with blk := bwd, responses := s.responses ++ [⟨0, 0⟩] } ∧
      ∀ (i : Nat) (h : i < 4),
        ((classify s.glyphs s.blk[i]).m = false → fwd[i] = s.blk[i] ∧ bwd[i] = s.blk[i]) ∧
        ((classify s.glyphs s.blk[i]).m = true →
          fwd[i] = glyph s.glyphs (BitVec.ofNat 5
            (((sbox (val s.glyphs s.blk[i])).toNat + 5 * i % 32 + s.key[i].v.toNat) % 32)) ∧
          bwd[i] = glyph s.glyphs (isbox (BitVec.ofInt 5
            (((val s.glyphs s.blk[i]).toNat - s.key[i].v.toNat - 5 * i % 32 : Int) % 32))))) ∧
    (s.klen = 16 → s.bcnt ≠ 4 →
      exec .sbkapp s = .next { s with estk := true, elast := 3, responses := s.responses ++ [⟨3, 0⟩] } ∧
      exec .sbkinv s = .next { s with estk := true, elast := 3, responses := s.responses ++ [⟨3, 0⟩] }) ∧
    (s.klen ≠ 16 →
      exec .sbkapp s = .next { s with estk := true, elast := 2, responses := s.responses ++ [⟨2, 0⟩] } ∧
      exec .sbkinv s = .next { s with estk := true, elast := 2, responses := s.responses ++ [⟨2, 0⟩] })

/-- R221(a): each transform after its inverse, in either order and in both variants, gives the block back with its
members upper-cased. -/
def Obligations.BlockTransformsAreInverse : Prop :=
  ∀ s : State, s.flt = false → s.glyphs.Valid → s.bcnt = 4 →
    (∃ t u : State, exec .sbapp s = .next t ∧ exec .sbinv t = .next u ∧
      u.blk = s.blk.map (upperCase s.glyphs)) ∧
    (∃ t u : State, exec .sbinv s = .next t ∧ exec .sbapp t = .next u ∧
      u.blk = s.blk.map (upperCase s.glyphs)) ∧
    (s.klen = 16 →
      (∃ t u : State, exec .sbkapp s = .next t ∧ exec .sbkinv t = .next u ∧
        u.blk = s.blk.map (upperCase s.glyphs)) ∧
      ∃ t u : State, exec .sbkinv s = .next t ∧ exec .sbkapp t = .next u ∧
        u.blk = s.blk.map (upperCase s.glyphs))

/-! ### Text procedures (46_text_procedures.md) -/

/-- R262, R263: the monoalphabetic cipher returns a text of the same length, and decrypting it with the same key
returns the text. -/
def Obligations.SimpleCipherRoundTrips : Prop :=
  ∀ (text key : Text) (s : State), Ready s → s.glyphs.Valid → key.length ≤ 32 →
    (∀ c ∈ text, UpperOrNonMember s.glyphs c) →
    ∃ (out : Text) (t u : State), encryptSimple text key s = (.ok out, t) ∧ out.length = text.length ∧
      Ready t ∧ decryptSimple out key t = (.ok text, u)

/-- R264, R265, R189(d), R189(e): the polyalphabetic cipher returns a text of the same length, decrypting it with
the same key and shift returns the text, both runs end with the same table, and the position is the number of
characters as its two residues. -/
def Obligations.PolyalphabeticCipherRoundTrips : Prop :=
  ∀ (text key : Text) (shift : Int) (s : State), Ready s → s.glyphs.Valid → key.length ≤ 32 →
    (∀ c ∈ key, (classify s.glyphs c).m = true) → (∀ c ∈ text, UpperOrNonMember s.glyphs c) →
    ∃ (out : Text) (t u : State), encryptPolyalphabetic text key shift s = (.ok out, t) ∧
      out.length = text.length ∧ Ready t ∧ decryptPolyalphabetic out key shift t = (.ok text, u) ∧
      u.tt = t.tt ∧ u.kidx = t.kidx ∧ u.bias = t.bias ∧
      (key ≠ [] → t.kidx.toNat = text.length % key.length ∧
        t.bias.toNat = (key.length + text.length) % 32)

/-- R187, R274: the table sequence does not depend on the data: two texts that differ only in which member stands
at places where both have one end with the same table and position, and differ, as ciphertexts, exactly where
their symbols differ. -/
def Obligations.PolyTableSequenceIgnoresTheData : Prop :=
  ∀ (x y key : Text) (shift : Int) (s : State), Ready s → s.glyphs.Valid → key.length ≤ 32 → key ≠ [] →
    (∀ c ∈ key, (classify s.glyphs c).m = true) →
    List.Forall₂ (fun a b => a = b ∨ ((classify s.glyphs a).m = true ∧ (classify s.glyphs b).m = true)) x y →
    ∃ (ox oy : Text) (t u : State), encryptPolyalphabetic x key shift s = (.ok ox, t) ∧
      encryptPolyalphabetic y key shift s = (.ok oy, u) ∧ t.tt = u.tt ∧ t.kidx = u.kidx ∧ t.bias = u.bias ∧
      ox.length = x.length ∧ oy.length = y.length ∧
      ∀ k : Nat, k < x.length →
        (ox.getD k 0 = oy.getD k 0 ↔ classify s.glyphs (x.getD k 0) = classify s.glyphs (y.getD k 0))

/-- R266, R267: with a 16-character key and a text of whole blocks the keyed S-block functions return a text of
the same length, and the second undoes the first. -/
def Obligations.SBlockCipherRoundTrips : Prop :=
  ∀ (text key : Text) (s : State), Ready s → s.glyphs.Valid → key.length = 16 → text.length % 4 = 0 →
    ∃ (out : Text) (t u : State), encryptSBlocks text key s = (.ok out, t) ∧ out.length = text.length ∧
      Ready t ∧ decryptSBlocks out key t = (.ok (text.map (upperCase s.glyphs)), u)

/-- R266: a key of another length is the key-length error for every text, before anything is sent; then a text
that is not whole blocks is the text-length error. -/
def Obligations.SBlockLengthErrorsComeFirst : Prop :=
  ∀ (text key : Text) (s : State),
    (key.length ≠ 16 →
      encryptSBlocks text key s = (.error .keyLength, s) ∧ decryptSBlocks text key s = (.error .keyLength, s)) ∧
    (key.length = 16 → text.length % 4 ≠ 0 →
      encryptSBlocks text key s = (.error .textLength, s) ∧ decryptSBlocks text key s = (.error .textLength, s))

/-- R268, R269, R271, R272: the enhanced pipeline returns whole blocks, and decrypting returns the text, unless the
polyalphabetic ciphertext ends in the filler; then it returns a proper prefix of the text. -/
def Obligations.EnhancedPipelineRoundTrips : Prop :=
  ∀ (text key : Text) (s : State), Ready s → s.glyphs.Valid → key.length ≤ 32 →
    (∀ c ∈ key, (classify s.glyphs c).m = true) → (∀ c ∈ text, UpperOrNonMember s.glyphs c) →
    ∃ (mid out : Text) (k : Nat) (v t u : State), encryptPolyalphabetic text key 8 s = (.ok mid, v) ∧
      encryptEnhanced text key s = (.ok out, t) ∧ out.length = 4 * ((text.length + 3) / 4) ∧
      decryptEnhanced out key t = (.ok (text.take k), u) ∧ k ≤ text.length ∧
      (k = text.length ↔ mid.getLast? ≠ some (glyph s.glyphs 31))

/-- R262, R264: the empty key is the identity of both ciphers, bit for bit. -/
def Obligations.EmptyKeyIsTheIdentity : Prop :=
  ∀ (text : Text) (shift : Int) (s : State), Ready s →
    (∃ t : State, encryptSimple text [] s = (.ok text, t)) ∧
    (∃ t : State, decryptSimple text [] s = (.ok text, t)) ∧
    (∃ t : State, encryptPolyalphabetic text [] shift s = (.ok text, t)) ∧
    ∃ t : State, decryptPolyalphabetic text [] shift s = (.ok text, t)

/-- R270: `get_custom_alphabet_string` returns the 32 glyphs of the keyed alphabet; for a key without members that is
the base alphabet. -/
def Obligations.CustomAlphabetStringShowsTheKeyedAlphabet : Prop :=
  ∀ (key : Text) (s : State), Ready s → key.length ≤ 32 →
    ∃ (out : Text) (t : State), customAlphabetString key s = (.ok out, t) ∧
      out = (kabuild (key.map (classify s.glyphs))).map (glyph s.glyphs) ∧
      out.Perm (ringValues.map (glyph s.glyphs)) ∧
      ((∀ c ∈ key, (classify s.glyphs c).m = false) → out = ringValues.map (glyph s.glyphs))
end

