-- ==== Sys2Proof/Laws/Encoding.lean ====
section
/-! SUPPORT. The fields of a packed word, and what decoding depends on. -/

namespace Sys2Proof

/-- The fields of a word as numbers (30_encoding.md R91). -/
theorem fields_toNat (w : CmdWord) :
    (opField w).toNat = w.toNat / 2 ^ 32 % 2 ^ 8 ∧ (aField w).toNat = w.toNat % 2 ^ 16 ∧
      (bField w).toNat = w.toNat / 2 ^ 16 % 2 ^ 16 := by
  simp [opField, aField, bField, BitVec.extractLsb'_toNat, Nat.shiftRight_eq_div_pow]

/-- A packed word as a number (R91). -/
theorem packWord_toNat (op : BitVec 8) (a b : BitVec 16) :
    (packWord op a b).toNat = op.toNat * 2 ^ 32 + b.toNat * 2 ^ 16 + a.toNat := by
  have := op.isLt
  have := a.isLt
  have := b.isLt
  rw [packWord, BitVec.toNat_ofNat, Nat.mod_eq_of_lt (by omega)]

/-- Packing and taking apart the command format (R91) agree. -/
theorem packWord_fields (op : BitVec 8) (a b : BitVec 16) :
    opField (packWord op a b) = op ∧ aField (packWord op a b) = a ∧ bField (packWord op a b) = b := by
  have hw := packWord_toNat op a b
  obtain ⟨ho, ha, hb⟩ := fields_toNat (packWord op a b)
  have := op.isLt
  have := a.isLt
  have := b.isLt
  refine ⟨BitVec.eq_of_toNat_eq ?_, BitVec.eq_of_toNat_eq ?_, BitVec.eq_of_toNat_eq ?_⟩ <;> omega

@[simp] theorem opField_packWord (op : BitVec 8) (a b : BitVec 16) : opField (packWord op a b) = op :=
  (packWord_fields op a b).1

@[simp] theorem aField_packWord (op : BitVec 8) (a b : BitVec 16) : aField (packWord op a b) = a :=
  (packWord_fields op a b).2.1

@[simp] theorem bField_packWord (op : BitVec 8) (a b : BitVec 16) : bField (packWord op a b) = b :=
  (packWord_fields op a b).2.2

/-- A word is its three fields. -/
theorem packWord_of_fields (w : CmdWord) : packWord (opField w) (aField w) (bField w) = w := by
  have hw := packWord_toNat (opField w) (aField w) (bField w)
  obtain ⟨ho, ha, hb⟩ := fields_toNat w
  have := w.isLt
  exact BitVec.eq_of_toNat_eq (by omega)

@[simp] theorem decode_packWord (op : BitVec 8) (a b : BitVec 16) :
    decode (packWord op a b) = decodeFields op a b := by
  simp [decode]

/-- A zero-extended ring value reads back as itself (R94). -/
@[simp] theorem v5_setWidth (v : RingVal) : v5 (v.setWidth 16) = v := by
  revert v; decide

/-- A zero-extended register number reads back as itself (R94). -/
@[simp] theorem n2_setWidth (n : BitVec 2) : n2 (n.setWidth 16) = n := by
  revert n; decide

end Sys2Proof
end

