-- ==== Sys2Proof/Laws/State.lean ====
section
/-! SUPPORT. One lemma per field per update: what each named update of the state leaves in each field. -/

namespace Sys2Proof.Machine

@[simp] theorem answer_klen (e : BitVec 4) (r : CharWord) (s : State) : (answer e r s).klen = s.klen := rfl
@[simp] theorem answer_key (e : BitVec 4) (r : CharWord) (s : State) : (answer e r s).key = s.key := rfl
@[simp] theorem answer_shift (e : BitVec 4) (r : CharWord) (s : State) : (answer e r s).shift = s.shift := rfl
@[simp] theorem answer_ka (e : BitVec 4) (r : CharWord) (s : State) : (answer e r s).ka = s.ka := rfl
@[simp] theorem answer_kav (e : BitVec 4) (r : CharWord) (s : State) : (answer e r s).kav = s.kav := rfl
@[simp] theorem answer_tt (e : BitVec 4) (r : CharWord) (s : State) : (answer e r s).tt = s.tt := rfl
@[simp] theorem answer_ttv (e : BitVec 4) (r : CharWord) (s : State) : (answer e r s).ttv = s.ttv := rfl
@[simp] theorem answer_kidx (e : BitVec 4) (r : CharWord) (s : State) : (answer e r s).kidx = s.kidx := rfl
@[simp] theorem answer_bias (e : BitVec 4) (r : CharWord) (s : State) : (answer e r s).bias = s.bias := rfl
@[simp] theorem answer_blk (e : BitVec 4) (r : CharWord) (s : State) : (answer e r s).blk = s.blk := rfl
@[simp] theorem answer_bcnt (e : BitVec 4) (r : CharWord) (s : State) : (answer e r s).bcnt = s.bcnt := rfl
@[simp] theorem answer_flt (e : BitVec 4) (r : CharWord) (s : State) : (answer e r s).flt = s.flt := rfl
@[simp] theorem answer_estk (e : BitVec 4) (r : CharWord) (s : State) : (answer e r s).estk = s.estk := rfl
@[simp] theorem answer_elast (e : BitVec 4) (r : CharWord) (s : State) : (answer e r s).elast = s.elast := rfl
@[simp] theorem answer_inputs (e : BitVec 4) (r : CharWord) (s : State) : (answer e r s).inputs = s.inputs := rfl
@[simp] theorem answer_responses (e : BitVec 4) (r : CharWord) (s : State) : (answer e r s).responses = s.responses ++ [⟨e, r⟩] := rfl
@[simp] theorem answer_awaitingReset (e : BitVec 4) (r : CharWord) (s : State) : (answer e r s).awaitingReset = s.awaitingReset := rfl
@[simp] theorem answer_draws (e : BitVec 4) (r : CharWord) (s : State) : (answer e r s).draws = s.draws := rfl
@[simp] theorem answer_glyphs (e : BitVec 4) (r : CharWord) (s : State) : (answer e r s).glyphs = s.glyphs := rfl

@[simp] theorem recordError_klen (e : Err) (s : State) : (recordError e s).klen = s.klen := rfl
@[simp] theorem recordError_key (e : Err) (s : State) : (recordError e s).key = s.key := rfl
@[simp] theorem recordError_shift (e : Err) (s : State) : (recordError e s).shift = s.shift := rfl
@[simp] theorem recordError_ka (e : Err) (s : State) : (recordError e s).ka = s.ka := rfl
@[simp] theorem recordError_kav (e : Err) (s : State) : (recordError e s).kav = s.kav := rfl
@[simp] theorem recordError_tt (e : Err) (s : State) : (recordError e s).tt = s.tt := rfl
@[simp] theorem recordError_ttv (e : Err) (s : State) : (recordError e s).ttv = s.ttv := rfl
@[simp] theorem recordError_kidx (e : Err) (s : State) : (recordError e s).kidx = s.kidx := rfl
@[simp] theorem recordError_bias (e : Err) (s : State) : (recordError e s).bias = s.bias := rfl
@[simp] theorem recordError_blk (e : Err) (s : State) : (recordError e s).blk = s.blk := rfl
@[simp] theorem recordError_bcnt (e : Err) (s : State) : (recordError e s).bcnt = s.bcnt := rfl
@[simp] theorem recordError_flt (e : Err) (s : State) : (recordError e s).flt = s.flt := rfl
@[simp] theorem recordError_estk (e : Err) (s : State) : (recordError e s).estk = true := rfl
@[simp] theorem recordError_elast (e : Err) (s : State) : (recordError e s).elast = errCode e := rfl
@[simp] theorem recordError_inputs (e : Err) (s : State) : (recordError e s).inputs = s.inputs := rfl
@[simp] theorem recordError_responses (e : Err) (s : State) : (recordError e s).responses = s.responses := rfl
@[simp] theorem recordError_awaitingReset (e : Err) (s : State) : (recordError e s).awaitingReset = s.awaitingReset := rfl
@[simp] theorem recordError_draws (e : Err) (s : State) : (recordError e s).draws = s.draws := rfl
@[simp] theorem recordError_glyphs (e : Err) (s : State) : (recordError e s).glyphs = s.glyphs := rfl

@[simp] theorem clearErrors_klen (s : State) : (clearErrors s).klen = s.klen := rfl
@[simp] theorem clearErrors_key (s : State) : (clearErrors s).key = s.key := rfl
@[simp] theorem clearErrors_shift (s : State) : (clearErrors s).shift = s.shift := rfl
@[simp] theorem clearErrors_ka (s : State) : (clearErrors s).ka = s.ka := rfl
@[simp] theorem clearErrors_kav (s : State) : (clearErrors s).kav = s.kav := rfl
@[simp] theorem clearErrors_tt (s : State) : (clearErrors s).tt = s.tt := rfl
@[simp] theorem clearErrors_ttv (s : State) : (clearErrors s).ttv = s.ttv := rfl
@[simp] theorem clearErrors_kidx (s : State) : (clearErrors s).kidx = s.kidx := rfl
@[simp] theorem clearErrors_bias (s : State) : (clearErrors s).bias = s.bias := rfl
@[simp] theorem clearErrors_blk (s : State) : (clearErrors s).blk = s.blk := rfl
@[simp] theorem clearErrors_bcnt (s : State) : (clearErrors s).bcnt = s.bcnt := rfl
@[simp] theorem clearErrors_flt (s : State) : (clearErrors s).flt = s.flt := rfl
@[simp] theorem clearErrors_estk (s : State) : (clearErrors s).estk = false := rfl
@[simp] theorem clearErrors_elast (s : State) : (clearErrors s).elast = 0 := rfl
@[simp] theorem clearErrors_inputs (s : State) : (clearErrors s).inputs = s.inputs := rfl
@[simp] theorem clearErrors_responses (s : State) : (clearErrors s).responses = s.responses := rfl
@[simp] theorem clearErrors_awaitingReset (s : State) : (clearErrors s).awaitingReset = s.awaitingReset := rfl
@[simp] theorem clearErrors_draws (s : State) : (clearErrors s).draws = s.draws := rfl
@[simp] theorem clearErrors_glyphs (s : State) : (clearErrors s).glyphs = s.glyphs := rfl

@[simp] theorem enterFaultState_klen (s : State) : (enterFaultState s).klen = s.klen := rfl
@[simp] theorem enterFaultState_key (s : State) : (enterFaultState s).key = s.key := rfl
@[simp] theorem enterFaultState_shift (s : State) : (enterFaultState s).shift = s.shift := rfl
@[simp] theorem enterFaultState_ka (s : State) : (enterFaultState s).ka = s.ka := rfl
@[simp] theorem enterFaultState_kav (s : State) : (enterFaultState s).kav = s.kav := rfl
@[simp] theorem enterFaultState_tt (s : State) : (enterFaultState s).tt = s.tt := rfl
@[simp] theorem enterFaultState_ttv (s : State) : (enterFaultState s).ttv = s.ttv := rfl
@[simp] theorem enterFaultState_kidx (s : State) : (enterFaultState s).kidx = s.kidx := rfl
@[simp] theorem enterFaultState_bias (s : State) : (enterFaultState s).bias = s.bias := rfl
@[simp] theorem enterFaultState_blk (s : State) : (enterFaultState s).blk = s.blk := rfl
@[simp] theorem enterFaultState_bcnt (s : State) : (enterFaultState s).bcnt = s.bcnt := rfl
@[simp] theorem enterFaultState_flt (s : State) : (enterFaultState s).flt = true := rfl
@[simp] theorem enterFaultState_estk (s : State) : (enterFaultState s).estk = s.estk := rfl
@[simp] theorem enterFaultState_elast (s : State) : (enterFaultState s).elast = s.elast := rfl
@[simp] theorem enterFaultState_inputs (s : State) : (enterFaultState s).inputs = s.inputs := rfl
@[simp] theorem enterFaultState_responses (s : State) : (enterFaultState s).responses = s.responses := rfl
@[simp] theorem enterFaultState_awaitingReset (s : State) : (enterFaultState s).awaitingReset = s.awaitingReset := rfl
@[simp] theorem enterFaultState_draws (s : State) : (enterFaultState s).draws = s.draws := rfl
@[simp] theorem enterFaultState_glyphs (s : State) : (enterFaultState s).glyphs = s.glyphs := rfl

@[simp] theorem invalidateTables_klen (s : State) : (invalidateTables s).klen = s.klen := rfl
@[simp] theorem invalidateTables_key (s : State) : (invalidateTables s).key = s.key := rfl
@[simp] theorem invalidateTables_shift (s : State) : (invalidateTables s).shift = s.shift := rfl
@[simp] theorem invalidateTables_ka (s : State) : (invalidateTables s).ka = s.ka := rfl
@[simp] theorem invalidateTables_kav (s : State) : (invalidateTables s).kav = false := rfl
@[simp] theorem invalidateTables_tt (s : State) : (invalidateTables s).tt = s.tt := rfl
@[simp] theorem invalidateTables_ttv (s : State) : (invalidateTables s).ttv = false := rfl
@[simp] theorem invalidateTables_kidx (s : State) : (invalidateTables s).kidx = s.kidx := rfl
@[simp] theorem invalidateTables_bias (s : State) : (invalidateTables s).bias = s.bias := rfl
@[simp] theorem invalidateTables_blk (s : State) : (invalidateTables s).blk = s.blk := rfl
@[simp] theorem invalidateTables_bcnt (s : State) : (invalidateTables s).bcnt = s.bcnt := rfl
@[simp] theorem invalidateTables_flt (s : State) : (invalidateTables s).flt = s.flt := rfl
@[simp] theorem invalidateTables_estk (s : State) : (invalidateTables s).estk = s.estk := rfl
@[simp] theorem invalidateTables_elast (s : State) : (invalidateTables s).elast = s.elast := rfl
@[simp] theorem invalidateTables_inputs (s : State) : (invalidateTables s).inputs = s.inputs := rfl
@[simp] theorem invalidateTables_responses (s : State) : (invalidateTables s).responses = s.responses := rfl
@[simp] theorem invalidateTables_awaitingReset (s : State) : (invalidateTables s).awaitingReset = s.awaitingReset := rfl
@[simp] theorem invalidateTables_draws (s : State) : (invalidateTables s).draws = s.draws := rfl
@[simp] theorem invalidateTables_glyphs (s : State) : (invalidateTables s).glyphs = s.glyphs := rfl

@[simp] theorem pushKey_klen (e : KeyEntry) (s : State) : (pushKey e s).klen = s.klen + 1 := rfl
@[simp] theorem pushKey_key (e : KeyEntry) (s : State) : (pushKey e s).key = s.key.setIfInBounds s.klen.toNat e := rfl
@[simp] theorem pushKey_shift (e : KeyEntry) (s : State) : (pushKey e s).shift = s.shift := rfl
@[simp] theorem pushKey_ka (e : KeyEntry) (s : State) : (pushKey e s).ka = s.ka := rfl
@[simp] theorem pushKey_kav (e : KeyEntry) (s : State) : (pushKey e s).kav = s.kav := rfl
@[simp] theorem pushKey_tt (e : KeyEntry) (s : State) : (pushKey e s).tt = s.tt := rfl
@[simp] theorem pushKey_ttv (e : KeyEntry) (s : State) : (pushKey e s).ttv = s.ttv := rfl
@[simp] theorem pushKey_kidx (e : KeyEntry) (s : State) : (pushKey e s).kidx = s.kidx := rfl
@[simp] theorem pushKey_bias (e : KeyEntry) (s : State) : (pushKey e s).bias = s.bias := rfl
@[simp] theorem pushKey_blk (e : KeyEntry) (s : State) : (pushKey e s).blk = s.blk := rfl
@[simp] theorem pushKey_bcnt (e : KeyEntry) (s : State) : (pushKey e s).bcnt = s.bcnt := rfl
@[simp] theorem pushKey_flt (e : KeyEntry) (s : State) : (pushKey e s).flt = s.flt := rfl
@[simp] theorem pushKey_estk (e : KeyEntry) (s : State) : (pushKey e s).estk = s.estk := rfl
@[simp] theorem pushKey_elast (e : KeyEntry) (s : State) : (pushKey e s).elast = s.elast := rfl
@[simp] theorem pushKey_inputs (e : KeyEntry) (s : State) : (pushKey e s).inputs = s.inputs := rfl
@[simp] theorem pushKey_responses (e : KeyEntry) (s : State) : (pushKey e s).responses = s.responses := rfl
@[simp] theorem pushKey_awaitingReset (e : KeyEntry) (s : State) : (pushKey e s).awaitingReset = s.awaitingReset := rfl
@[simp] theorem pushKey_draws (e : KeyEntry) (s : State) : (pushKey e s).draws = s.draws := rfl
@[simp] theorem pushKey_glyphs (e : KeyEntry) (s : State) : (pushKey e s).glyphs = s.glyphs := rfl

@[simp] theorem advance_klen (s : State) : (advance s).klen = s.klen := rfl
@[simp] theorem advance_key (s : State) : (advance s).key = s.key := rfl
@[simp] theorem advance_shift (s : State) : (advance s).shift = s.shift := rfl
@[simp] theorem advance_ka (s : State) : (advance s).ka = s.ka := rfl
@[simp] theorem advance_kav (s : State) : (advance s).kav = s.kav := rfl
@[simp] theorem advance_tt (s : State) : (advance s).tt = s.tt := rfl
@[simp] theorem advance_ttv (s : State) : (advance s).ttv = s.ttv := rfl
@[simp] theorem advance_kidx (s : State) : (advance s).kidx = BitVec.ofNat 5 ((s.kidx.toNat + 1) % s.klen.toNat) := rfl
@[simp] theorem advance_bias (s : State) : (advance s).bias = s.bias + 1 := rfl
@[simp] theorem advance_blk (s : State) : (advance s).blk = s.blk := rfl
@[simp] theorem advance_bcnt (s : State) : (advance s).bcnt = s.bcnt := rfl
@[simp] theorem advance_flt (s : State) : (advance s).flt = s.flt := rfl
@[simp] theorem advance_estk (s : State) : (advance s).estk = s.estk := rfl
@[simp] theorem advance_elast (s : State) : (advance s).elast = s.elast := rfl
@[simp] theorem advance_inputs (s : State) : (advance s).inputs = s.inputs := rfl
@[simp] theorem advance_responses (s : State) : (advance s).responses = s.responses := rfl
@[simp] theorem advance_awaitingReset (s : State) : (advance s).awaitingReset = s.awaitingReset := rfl
@[simp] theorem advance_draws (s : State) : (advance s).draws = s.draws := rfl
@[simp] theorem advance_glyphs (s : State) : (advance s).glyphs = s.glyphs := rfl

@[simp] theorem pushBlock_klen (ch : CharWord) (s : State) : (pushBlock ch s).klen = s.klen := rfl
@[simp] theorem pushBlock_key (ch : CharWord) (s : State) : (pushBlock ch s).key = s.key := rfl
@[simp] theorem pushBlock_shift (ch : CharWord) (s : State) : (pushBlock ch s).shift = s.shift := rfl
@[simp] theorem pushBlock_ka (ch : CharWord) (s : State) : (pushBlock ch s).ka = s.ka := rfl
@[simp] theorem pushBlock_kav (ch : CharWord) (s : State) : (pushBlock ch s).kav = s.kav := rfl
@[simp] theorem pushBlock_tt (ch : CharWord) (s : State) : (pushBlock ch s).tt = s.tt := rfl
@[simp] theorem pushBlock_ttv (ch : CharWord) (s : State) : (pushBlock ch s).ttv = s.ttv := rfl
@[simp] theorem pushBlock_kidx (ch : CharWord) (s : State) : (pushBlock ch s).kidx = s.kidx := rfl
@[simp] theorem pushBlock_bias (ch : CharWord) (s : State) : (pushBlock ch s).bias = s.bias := rfl
@[simp] theorem pushBlock_blk (ch : CharWord) (s : State) : (pushBlock ch s).blk = s.blk.setIfInBounds s.bcnt.toNat ch := rfl
@[simp] theorem pushBlock_bcnt (ch : CharWord) (s : State) : (pushBlock ch s).bcnt = s.bcnt + 1 := rfl
@[simp] theorem pushBlock_flt (ch : CharWord) (s : State) : (pushBlock ch s).flt = s.flt := rfl
@[simp] theorem pushBlock_estk (ch : CharWord) (s : State) : (pushBlock ch s).estk = s.estk := rfl
@[simp] theorem pushBlock_elast (ch : CharWord) (s : State) : (pushBlock ch s).elast = s.elast := rfl
@[simp] theorem pushBlock_inputs (ch : CharWord) (s : State) : (pushBlock ch s).inputs = s.inputs := rfl
@[simp] theorem pushBlock_responses (ch : CharWord) (s : State) : (pushBlock ch s).responses = s.responses := rfl
@[simp] theorem pushBlock_awaitingReset (ch : CharWord) (s : State) : (pushBlock ch s).awaitingReset = s.awaitingReset := rfl
@[simp] theorem pushBlock_draws (ch : CharWord) (s : State) : (pushBlock ch s).draws = s.draws := rfl
@[simp] theorem pushBlock_glyphs (ch : CharWord) (s : State) : (pushBlock ch s).glyphs = s.glyphs := rfl

@[simp] theorem popBlock_klen (s : State) : (popBlock s).klen = s.klen := rfl
@[simp] theorem popBlock_key (s : State) : (popBlock s).key = s.key := rfl
@[simp] theorem popBlock_shift (s : State) : (popBlock s).shift = s.shift := rfl
@[simp] theorem popBlock_ka (s : State) : (popBlock s).ka = s.ka := rfl
@[simp] theorem popBlock_kav (s : State) : (popBlock s).kav = s.kav := rfl
@[simp] theorem popBlock_tt (s : State) : (popBlock s).tt = s.tt := rfl
@[simp] theorem popBlock_ttv (s : State) : (popBlock s).ttv = s.ttv := rfl
@[simp] theorem popBlock_kidx (s : State) : (popBlock s).kidx = s.kidx := rfl
@[simp] theorem popBlock_bias (s : State) : (popBlock s).bias = s.bias := rfl
@[simp] theorem popBlock_blk (s : State) : (popBlock s).blk = shiftDown s.bcnt.toNat s.blk := rfl
@[simp] theorem popBlock_bcnt (s : State) : (popBlock s).bcnt = s.bcnt - 1 := rfl
@[simp] theorem popBlock_flt (s : State) : (popBlock s).flt = s.flt := rfl
@[simp] theorem popBlock_estk (s : State) : (popBlock s).estk = s.estk := rfl
@[simp] theorem popBlock_elast (s : State) : (popBlock s).elast = s.elast := rfl
@[simp] theorem popBlock_inputs (s : State) : (popBlock s).inputs = s.inputs := rfl
@[simp] theorem popBlock_responses (s : State) : (popBlock s).responses = s.responses := rfl
@[simp] theorem popBlock_awaitingReset (s : State) : (popBlock s).awaitingReset = s.awaitingReset := rfl
@[simp] theorem popBlock_draws (s : State) : (popBlock s).draws = s.draws := rfl
@[simp] theorem popBlock_glyphs (s : State) : (popBlock s).glyphs = s.glyphs := rfl

@[simp] theorem resetEngine_klen (s : State) : (resetEngine s).klen = 0 := rfl
@[simp] theorem resetEngine_key (s : State) : (resetEngine s).key = freeKey (s.draws + 1) := rfl
@[simp] theorem resetEngine_shift (s : State) : (resetEngine s).shift = Params.shiftDefault := rfl
@[simp] theorem resetEngine_ka (s : State) : (resetEngine s).ka = freeKa (s.draws + 1) := rfl
@[simp] theorem resetEngine_kav (s : State) : (resetEngine s).kav = false := rfl
@[simp] theorem resetEngine_tt (s : State) : (resetEngine s).tt = freeTt (s.draws + 1) := rfl
@[simp] theorem resetEngine_ttv (s : State) : (resetEngine s).ttv = false := rfl
@[simp] theorem resetEngine_kidx (s : State) : (resetEngine s).kidx = 0 := rfl
@[simp] theorem resetEngine_bias (s : State) : (resetEngine s).bias = 0 := rfl
@[simp] theorem resetEngine_blk (s : State) : (resetEngine s).blk = freeBlk (s.draws + 1) := rfl
@[simp] theorem resetEngine_bcnt (s : State) : (resetEngine s).bcnt = 0 := rfl
@[simp] theorem resetEngine_flt (s : State) : (resetEngine s).flt = false := rfl
@[simp] theorem resetEngine_estk (s : State) : (resetEngine s).estk = false := rfl
@[simp] theorem resetEngine_elast (s : State) : (resetEngine s).elast = 0 := rfl
@[simp] theorem resetEngine_inputs (s : State) : (resetEngine s).inputs = s.inputs := rfl
@[simp] theorem resetEngine_responses (s : State) : (resetEngine s).responses = s.responses := rfl
@[simp] theorem resetEngine_awaitingReset (s : State) : (resetEngine s).awaitingReset = false := rfl
@[simp] theorem resetEngine_draws (s : State) : (resetEngine s).draws = s.draws + 1 := rfl
@[simp] theorem resetEngine_glyphs (s : State) : (resetEngine s).glyphs = s.glyphs := rfl

@[simp] theorem applyPower_awaitingReset (s : State) : (applyPower s).awaitingReset = true := rfl
@[simp] theorem applyPower_inputs (s : State) : (applyPower s).inputs = s.inputs := rfl
@[simp] theorem applyPower_responses (s : State) : (applyPower s).responses = s.responses := rfl
@[simp] theorem applyPower_draws (s : State) : (applyPower s).draws = s.draws + 1 := rfl
@[simp] theorem applyPower_glyphs (s : State) : (applyPower s).glyphs = s.glyphs := rfl

end Sys2Proof.Machine
end

