-- ==== Sys2Proof/Laws/Tables.lean ====
section
/-! SUPPORT. What the table functions give: one specification per function of Operands.lean, for the proofs
about KAP and PTE to cite. -/

namespace Sys2Proof.Machine

/-! ### The glyph table -/

/-- Where R8 leaves the glyph open, it is the table's own. -/
theorem upAt_of_elided (g : GlyphTable) {v : RingVal} (h : 3 ≤ v.toNat ∧ v.toNat ≤ 29) :
    g.upAt v = g.upElided[v.toNat - 3]'(by omega) := dif_pos h

/-- Where R8 fixes the glyph, every table has it. -/
theorem upAt_of_fixed (g : GlyphTable) {v : RingVal} (h : ¬ (3 ≤ v.toNat ∧ v.toNat ≤ 29)) :
    g.upAt v = fixedGlyph v := dif_neg h

/-! ### The ring values -/

theorem ringValues_length : ringValues.length = 32 := by decide

theorem mem_ringValues (v : RingVal) : v ∈ ringValues := by revert v; decide

theorem ringValues_nodup : ringValues.Nodup := by decide

/-- A duplicate-free list of ring values that holds them all is a permutation of the ring. -/
theorem perm_ringValues {l : List RingVal} (hn : l.Nodup) (hm : ∀ v, v ∈ l) : l.Perm ringValues :=
  (List.perm_ext_iff_of_nodup hn ringValues_nodup).2 fun v => ⟨fun _ => mem_ringValues v, fun _ => hm v⟩

/-! ### Appending what is not yet there -/

theorem mem_appendNew {out : List RingVal} {v x : RingVal} : x ∈ appendNew out v ↔ x ∈ out ∨ x = v := by
  unfold appendNew
  split <;> simp
  rintro rfl
  assumption

theorem appendNew_nodup {out : List RingVal} (v : RingVal) (h : out.Nodup) : (appendNew out v).Nodup := by
  unfold appendNew
  split
  · exact h
  · exact List.nodup_append.2 ⟨h, List.nodup_singleton v, by rintro a ha b hb rfl; simp at hb; subst hb; contradiction⟩

/-- Appending a duplicate-free list value by value appends the values not yet there, in order. -/
theorem foldl_appendNew {l : List RingVal} (hl : l.Nodup) (out : List RingVal) :
    l.foldl appendNew out = out ++ l.filter fun v => decide (v ∉ out) := by
  induction l generalizing out with
  | nil => simp
  | cons v l ih =>
    obtain ⟨hv, hl⟩ := List.nodup_cons.1 hl
    rw [List.foldl_cons, ih hl]
    by_cases h : v ∈ out
    · simp [appendNew, h]
    · have : ∀ x ∈ l, x ≠ v := fun x hx e => hv (e ▸ hx)
      simp only [appendNew, h, if_false, List.filter_cons, not_false_eq_true, decide_true, if_true,
        List.append_assoc, List.singleton_append]
      congr 2
      exact List.filter_congr fun x hx => by simp [this x hx]

/-- The fill loop of R160 and R181 appends the ring values not yet placed, in ring order. -/
theorem fillInRingOrder_eq (out : List RingVal) :
    fillInRingOrder out = out ++ ringValues.filter fun v => decide (v ∉ out) :=
  foldl_appendNew ringValues_nodup out

/-- Filling up a duplicate-free list gives a permutation of the ring. -/
theorem fillInRingOrder_perm {out : List RingVal} (h : out.Nodup) : (fillInRingOrder out).Perm ringValues := by
  rw [fillInRingOrder_eq]
  refine perm_ringValues (List.nodup_append.2 ⟨h, ringValues_nodup.filter _, ?_⟩) fun v => ?_
  · rintro a ha b hb rfl
    simp at hb
    exact hb.2 ha
  · by_cases hv : v ∈ out <;> simp [hv, mem_ringValues]

/-! ### Tables as lists -/

@[simp] theorem tableOf_toList {l : List RingVal} (h : l.length = 32) : (tableOf l).toList = l := by
  apply List.ext_getElem
  · simp [h]
  · intro i h1 h2
    simp [tableOf, List.getD_eq_getElem?_getD, h2]

theorem entry_eq_getElem {α : Type} (A : Vector α 32) (j : RingVal) :
    entry A j = A.toList[j.toNat]'(by simpa using j.isLt) := by
  simp [entry]

/-- A table that is a permutation holds every ring value. -/
theorem IsPermutation_mem {T : Table} (h : T.toList.Perm ringValues) (v : RingVal) : v ∈ T.toList :=
  h.mem_iff.2 (mem_ringValues v)

theorem IsPermutation_nodup {T : Table} (h : T.toList.Perm ringValues) : T.toList.Nodup :=
  h.nodup_iff.2 ringValues_nodup

/-- In a permutation an entry stands at one index only. -/
theorem entry_injective {T : Table} (h : T.toList.Perm ringValues) {j k : RingVal} (e : entry T j = entry T k) :
    j = k := by
  rw [entry_eq_getElem, entry_eq_getElem] at e
  exact BitVec.eq_of_toNat_eq ((IsPermutation_nodup h).getElem_inj_iff.1 e)

/-- `index_of` finds the least index, or none when there is no index (R14). -/
theorem indexOf_eq_some {A : Table} {v j : RingVal} (h : indexOf A v = some j) :
    entry A j = v ∧ ∀ k : RingVal, k < j → entry A k ≠ v := by
  obtain ⟨n, hn, rfl⟩ := Option.map_eq_some_iff.1 h
  obtain ⟨hlt, hv, hmin⟩ := List.findIdx?_eq_some_iff_getElem.1 hn
  have hlen : n < 32 := by simpa using hlt
  have hto : (BitVec.ofNat 5 n).toNat = n := by simp [Nat.mod_eq_of_lt hlen]
  refine ⟨?_, fun k hk => ?_⟩
  · rw [entry_eq_getElem]
    simp only [hto]
    simpa using hv
  · have hk' : k.toNat < n := by
      have := BitVec.lt_def.1 hk
      omega
    rw [entry_eq_getElem]
    simpa using hmin k.toNat hk'

theorem indexOf_eq_none {A : Table} {v : RingVal} (h : indexOf A v = none) (j : RingVal) : entry A j ≠ v := by
  have h' := List.findIdx?_eq_none_iff.1 (Option.map_eq_none_iff.1 h)
  rw [entry_eq_getElem]
  intro e
  have hj := h' _ (List.getElem_mem (l := A.toList) (n := j.toNat) (by simpa using j.isLt))
  rw [e] at hj
  simp at hj

theorem indexOf_of_least {A : Table} {v j : RingVal} (hv : entry A j = v)
    (hmin : ∀ k : RingVal, k < j → entry A k ≠ v) : indexOf A v = some j := by
  cases hi : indexOf A v with
  | none => exact absurd hv (indexOf_eq_none hi j)
  | some k =>
    obtain ⟨hk, hkmin⟩ := indexOf_eq_some hi
    have h1 : ¬ k < j := fun h => hmin k h hk
    have h2 : ¬ j < k := fun h => hkmin j h hv
    rw [BitVec.not_lt] at h1 h2
    exact congrArg some (BitVec.le_antisymm h2 h1)

/-- In a permutation `index_of` finds every ring value. -/
theorem indexOf_of_perm {T : Table} (h : T.toList.Perm ringValues) (v : RingVal) :
    ∃ j, indexOf T v = some j ∧ entry T j = v := by
  cases hi : indexOf T v with
  | some j => exact ⟨j, rfl, (indexOf_eq_some hi).1⟩
  | none =>
    obtain ⟨n, hn, e⟩ := List.getElem_of_mem (IsPermutation_mem h v)
    have hlen : n < 32 := by simpa using hn
    refine absurd ?_ (indexOf_eq_none hi (BitVec.ofNat 5 n))
    rw [entry_eq_getElem]
    simp only [BitVec.toNat_ofNat, Nat.mod_eq_of_lt hlen]
    exact e

/-! ### The probe loop -/

/-- What the probe loop can answer: the first ring successor not taken, or the end of its fuel. -/
theorem advancePast_spec (taken : List RingVal) (fuel : Nat) (s : RingVal) :
    ∃ n : Nat, n ≤ fuel ∧ advancePast taken fuel s = s + BitVec.ofNat 5 n ∧
      (∀ k : Nat, k < n → s + BitVec.ofNat 5 k ∈ taken) ∧
      (n < fuel → advancePast taken fuel s ∉ taken) := by
  induction fuel generalizing s with
  | zero => exact ⟨0, Nat.le_refl 0, by simp [advancePast], by simp, by simp⟩
  | succ fuel ih =>
    by_cases hs : s ∈ taken
    · obtain ⟨n, hn, he, hk, hlt⟩ := ih (succ s)
      have hstep : ∀ k : Nat, succ s + BitVec.ofNat 5 k = s + BitVec.ofNat 5 (k + 1) := fun k => by
        rw [succ, BitVec.ofNat_add, BitVec.add_assoc, BitVec.add_comm 1]
        rfl
      refine ⟨n + 1, by omega, by simp [advancePast, hs, he, hstep], ?_, ?_⟩
      · intro k hkn
        cases k with
        | zero => simpa using hs
        | succ k => exact hstep k ▸ hk k (by omega)
      · intro h
        simpa [advancePast, hs] using hlt (by omega)
    · exact ⟨0, by omega, by simp [advancePast, hs], by simp, fun _ => by simp [advancePast, hs]⟩

/-- The first `n` successors of a ring value are different for `n` up to 32. -/
theorem successors_nodup (s : RingVal) {n : Nat} (hn : n ≤ 32) :
    ((List.range n).map fun k => s + BitVec.ofNat 5 k).Nodup := by
  refine (List.nodup_map_iff_inj_on List.nodup_range).2 fun a ha b hb e => ?_
  have ha' := List.mem_range.1 ha
  have hb' := List.mem_range.1 hb
  have := congrArg BitVec.toNat (BitVec.add_left_inj s |>.1 (by simpa [BitVec.add_comm] using e) :
    BitVec.ofNat 5 a = BitVec.ofNat 5 b)
  simp at this
  omega

/-- With at most 31 values taken the probe leaves them, after at most as many steps (R181, R183, R341). -/
theorem probe_spec {taken : List RingVal} (h : taken.length < 32) (s : RingVal) :
    probe taken s ∉ taken ∧ ∃ n : Nat, n ≤ taken.length ∧ probe taken s = s + BitVec.ofNat 5 n ∧
      ∀ k : Nat, k < n → s + BitVec.ofNat 5 k ∈ taken := by
  obtain ⟨n, hn, he, hk, hlt⟩ := advancePast_spec taken Params.ringOrder s
  have hle : n ≤ taken.length := by
    have hsub : ((List.range n).map fun k => s + BitVec.ofNat 5 k) ⊆ taken := by
      intro x hx
      obtain ⟨k, hkn, rfl⟩ := List.mem_map.1 hx
      exact hk k (List.mem_range.1 hkn)
    have := ((successors_nodup s hn).subperm hsub).length_le
    simpa using this
  exact ⟨hlt (by simp only [Params.ringOrder]; omega), n, hle, he, hk⟩

end Sys2Proof.Machine
end

