-- ==== Sys2Proof/Laws/Ops.lean ====
section
/-! SUPPORT. What each shared operation can answer, said once, for the proofs to cite instead of unfolding it. -/

namespace Sys2Proof.Machine

/-! ### Ending a command -/

@[simp] theorem respond_eq_next {r : CharWord} {s t : State} : respond r s = .next t ↔ t = answer 0 r s := by
  simp [respond, eq_comm]

@[simp] theorem raise_eq_next {e : Err} {s t : State} :
    raise e s = .next t ↔ t = answer (errCode e) 0 (recordError e s) := by
  simp [raise, eq_comm]

@[simp] theorem fatal_eq_next {s t : State} :
    fatal s = .next t ↔ t = answer 15 0 (recordError .fatal (enterFaultState s)) := by
  simp [fatal, errCode]

/-- Outside the fault state a command goes on to its own rule (30_encoding.md R102). -/
theorem unlessFaulted_of_ok {s : State} (h : s.flt = false) (k : Result) : unlessFaulted s k = k := by
  simp [unlessFaulted, h]

/-- In the fault state it answers E_FATAL and changes nothing (60_exceptions.md R289). -/
theorem unlessFaulted_of_faulted {s : State} (h : s.flt = true) (k : Result) :
    unlessFaulted s k = .next (answer 15 0 s) := by
  simp [unlessFaulted, h, errCode]

theorem unlessFaulted_cases {s t : State} {k : Result} (h : unlessFaulted s k = .next t) :
    (s.flt = true ∧ t = answer 15 0 s) ∨ (s.flt = false ∧ k = .next t) := by
  cases hf : s.flt with
  | true => exact .inl ⟨rfl, (Host.Outcome.next.inj (unlessFaulted_of_faulted hf k ▸ h)).symm⟩
  | false => exact .inr ⟨rfl, unlessFaulted_of_ok hf k ▸ h⟩

/-- An illegal word answers E_FATAL in the fault state, else E_ILLOP (30_encoding.md R96, R102). -/
theorem rejectIllegal_eq (s : State) :
    rejectIllegal s =
      .next (if s.flt then answer 15 0 s else answer 1 0 (recordError .illop s)) := by
  cases h : s.flt <;> simp [rejectIllegal, unlessFaulted, h, raise, errCode]

/-! ### The key buffer and the block buffer -/

/-- After KPUSH's effect the loaded key has the new entry at its end (41_key.md R141). -/
theorem loadedKey_pushKey (e : KeyEntry) {s : State} (h : s.klen.toNat < 32) :
    loadedKey (pushKey e s) = loadedKey s ++ [e] := by
  have hk : (s.klen + 1).toNat = s.klen.toNat + 1 := by
    rw [BitVec.toNat_add]; simp; omega
  simp only [loadedKey, pushKey, hk, Vector.toList_setIfInBounds]
  rw [List.take_add_one, List.take_set_of_le (Nat.le_refl _)]
  simp [h]

/-- The entries of the loaded key are the entries of the buffer below `KLEN` (R28). -/
theorem loadedKey_getElem {s : State} {j : Nat} (h : j < (loadedKey s).length) :
    (loadedKey s)[j] = s.key.toList[j]'(by simp [loadedKey] at h; simp; omega) := by
  simp [loadedKey]

/-- After BPUSH's effect the block has the new word at its end (44_sblock.md R215). -/
theorem pushBlock_contents (ch : CharWord) {s : State} (h : s.bcnt.toNat < 4) :
    (pushBlock ch s).blk.toList.take (pushBlock ch s).bcnt.toNat = s.blk.toList.take s.bcnt.toNat ++ [ch] := by
  have hk : (s.bcnt + 1).toNat = s.bcnt.toNat + 1 := by
    rw [BitVec.toNat_add]; simp; omega
  simp only [pushBlock, hk, Vector.toList_setIfInBounds]
  rw [List.take_add_one, List.take_set_of_le (Nat.le_refl _)]
  simp [h]

/-- The four lanes of a block transform, by position (44_sblock.md R221). -/
theorem mapBlock_getElem (g : GlyphTable) (f : RingVal → RingVal → RingVal) (b : Block) (i : Nat) (h : i < 4) :
    (mapBlock g f b)[i] = lane g f (BitVec.ofNat 5 i) b[i] := by
  have : i = 0 ∨ i = 1 ∨ i = 2 ∨ i = 3 := by omega
  rcases this with rfl | rfl | rfl | rfl <;> rfl

/-! ### The ciphers and the block transforms -/

/-- Everything the monoalphabetic cipher can do (42_keyed_alphabet_mono.md R163, R164). -/
theorem monoCipher_cases {move : RingVal → RingVal → RingVal} {ch : CharWord} {s t : State}
    (h : monoCipher move ch s = .next t) :
    (s.klen = 0 ∧ t = answer 0 ch s) ∨
    (s.klen ≠ 0 ∧ s.kav = false ∧ t = answer 4 0 (recordError .noka s)) ∨
    (s.klen ≠ 0 ∧ s.kav = true ∧ (classify s.glyphs ch).m = false ∧ t = answer 0 ch s) ∨
    (s.klen ≠ 0 ∧ s.kav = true ∧ (classify s.glyphs ch).m = true ∧ indexOf s.ka (val s.glyphs ch) = none ∧
      t = answer 15 0 (recordError .fatal (enterFaultState s))) ∨
    ∃ j, s.klen ≠ 0 ∧ s.kav = true ∧ (classify s.glyphs ch).m = true ∧ indexOf s.ka (val s.glyphs ch) = some j ∧
      t = answer 0 (glyph s.glyphs (entry s.ka (move j s.shift))) s := by
  unfold monoCipher at h
  split at h
  · exact .inl ⟨‹_›, by simpa using h⟩
  · refine .inr ?_
    split at h
    · exact .inl ⟨‹_›, by simpa using ‹(!s.kav) = true›, by simpa [errCode] using h⟩
    · have hk : s.kav = true := by simpa using ‹¬(!s.kav) = true›
      refine .inr ?_
      split at h
      · exact .inl ⟨‹_›, hk, by simpa using ‹(!(classify s.glyphs ch).m) = true›, by simpa using h⟩
      · have hm : (classify s.glyphs ch).m = true := by simpa using ‹¬(!(classify s.glyphs ch).m) = true›
        split at h
        · exact .inr (.inl ⟨‹_›, hk, hm, ‹_›, by simpa using h⟩)
        · exact .inr (.inr ⟨_, ‹_›, hk, hm, ‹_›, by simpa using h⟩)

/-- Everything a step of the polyalphabetic cipher can do (43_poly.md R186 to R188). -/
theorem polyCipher_cases {move : RingVal → RingVal → RingVal} {ch : CharWord} {s t : State}
    (h : polyCipher move ch s = .next t) :
    (s.klen = 0 ∧ t = answer 0 ch s) ∨
    (s.klen ≠ 0 ∧ s.ttv = false ∧ t = answer 5 0 (recordError .nott s)) ∨
    (s.klen ≠ 0 ∧ s.ttv = true ∧ (classify s.glyphs ch).m = false ∧ t = answer 0 ch (advance s)) ∨
    (s.klen ≠ 0 ∧ s.ttv = true ∧ (classify s.glyphs ch).m = true ∧
      (indexOf s.tt (val s.glyphs ch) = none ∨ shiftTable s.tt (entry s.key s.kidx) s.bias = none) ∧
      t = answer 15 0 (recordError .fatal (enterFaultState s))) ∨
    ∃ pos T p, s.klen ≠ 0 ∧ s.ttv = true ∧ (classify s.glyphs ch).m = true ∧ indexOf s.tt (val s.glyphs ch) = some pos ∧
      shiftTable s.tt (entry s.key s.kidx) s.bias = some (T, p) ∧
      t = answer 0 (glyph s.glyphs (entry s.tt (move pos s.shift))) (advance { s with tt := T }) := by
  unfold polyCipher at h
  split at h
  · exact .inl ⟨‹_›, by simpa using h⟩
  · refine .inr ?_
    split at h
    · exact .inl ⟨‹_›, by simpa using ‹(!s.ttv) = true›, by simpa [errCode] using h⟩
    · have hk : s.ttv = true := by simpa using ‹¬(!s.ttv) = true›
      refine .inr ?_
      split at h
      · exact .inl ⟨‹_›, hk, by simpa using ‹(!(classify s.glyphs ch).m) = true›, by simpa using h⟩
      · have hm : (classify s.glyphs ch).m = true := by simpa using ‹¬(!(classify s.glyphs ch).m) = true›
        refine .inr ?_
        split at h
        · exact .inl ⟨‹_›, hk, hm, .inl ‹_›, by simpa using h⟩
        · split at h
          · exact .inl ⟨‹_›, hk, hm, .inr ‹_›, by simpa using h⟩
          · exact .inr ⟨_, _, _, ‹_›, hk, hm, ‹_›, ‹_›, by simpa using h⟩

/-- Everything a block transform can do (44_sblock.md R217, R218). -/
theorem transformBlock_cases {f : RingVal → RingVal → RingVal} {s t : State}
    (h : transformBlock f s = .next t) :
    (s.bcnt.toNat = 4 ∧ t = answer 0 0 { s with blk := mapBlock s.glyphs f s.blk }) ∨
    (s.bcnt.toNat ≠ 4 ∧ t = answer 3 0 (recordError .blklen s)) := by
  by_cases hb : s.bcnt.toNat = 4
  · exact .inl ⟨hb, by simpa [transformBlock, blockReady, Params.blockLen, hb] using h⟩
  · exact .inr ⟨hb, by simpa [transformBlock, blockReady, Params.blockLen, hb, errCode] using h⟩

/-- Everything a keyed block transform can do (R219, R220): the key length is tested first. -/
theorem keyedTransform_cases {f : RingVal → RingVal → RingVal} {s t : State}
    (h : keyedTransform f s = .next t) :
    (s.klen.toNat ≠ 16 ∧ t = answer 2 0 (recordError .keylen s)) ∨
    (s.klen.toNat = 16 ∧ transformBlock f s = .next t) := by
  by_cases hk : s.klen.toNat = 16
  · exact .inr ⟨hk, by simpa [keyedTransform, sbKeyReady, Params.sbKeyLen, hk] using h⟩
  · exact .inl ⟨hk, by simpa [keyedTransform, sbKeyReady, Params.sbKeyLen, hk, errCode] using h⟩

/-! ### Taking an input -/

/-- With a word as the oldest input, the step of an engine that has been reset is the word's command. -/
theorem step_command {s : State} {w : CmdWord} {rest : List HostInput} (hi : s.inputs = .command w :: rest)
    (ha : s.awaitingReset = false) : step s = acceptCommand w { s with inputs := rest } := by
  simp [step, acceptNext, hi, acceptInput, ha]

theorem step_idle {s : State} (hi : s.inputs = []) : step s = .next s := by
  simp [step, acceptNext, hi]

theorem step_rst {s : State} {rest : List HostInput} (hi : s.inputs = .rst :: rest) :
    step s = .next (resetEngine { s with inputs := rest }) := by
  simp [step, acceptNext, hi, acceptInput]

theorem step_powerOn {s : State} {rest : List HostInput} (hi : s.inputs = .powerOn :: rest) :
    step s = .next (applyPower { s with inputs := rest }) := by
  simp [step, acceptNext, hi, acceptInput]

theorem step_before_reset {s : State} {w : CmdWord} {rest : List HostInput} (hi : s.inputs = .command w :: rest)
    (ha : s.awaitingReset = true) (hw : decode w ≠ some .sreset) : step s = .refused .commandBeforeReset := by
  simp [step, acceptNext, hi, acceptInput, ha, isReset, hw]

/-- SRESET is a reset before the first one too (70_reset_and_hazards.md R320, 45_system.md R241). -/
theorem step_first_sreset {s : State} {w : CmdWord} {rest : List HostInput} (hi : s.inputs = .command w :: rest)
    (hw : decode w = some .sreset) : step s = .next (answer 0 0 (resetEngine { s with inputs := rest })) := by
  simp [step, acceptNext, hi, acceptInput, isReset, hw, acceptCommand, exec, execSreset, respond]

/-- A placed word is what the next step runs (30_encoding.md R90). -/
theorem step_withFetchWord (s : State) (nbits w : Nat) :
    step (s.withFetchWord nbits w) =
      acceptCommand (BitVec.ofNat 40 (w % 2 ^ nbits)) { s with awaitingReset := false } := by
  simp [State.withFetchWord, presentWord, step, acceptNext, acceptInput]

end Sys2Proof.Machine
end

