-- ==== Sys2Proof/Laws/PerInstr.lean ====
section
/-! SUPPORT. Facts about commands as syntax, one lemma per constructor of `Instr`. -/

namespace Sys2Proof.Laws

/-- The fields of a command's word are its opcode and its two operands (30_encoding.md R91, R95). -/
def EncodeFields.Statement (i : Instr) : Prop :=
  opField (encode i) = i.opcode ∧ aField (encode i) = i.aOperand ∧ bField (encode i) = i.bOperand

theorem EncodeFields.nop : EncodeFields.Statement .nop :=
  packWord_fields _ _ _
theorem EncodeFields.sreset : EncodeFields.Statement .sreset :=
  packWord_fields _ _ _
theorem EncodeFields.rdcr (n : BitVec 2) : EncodeFields.Statement (.rdcr n) :=
  packWord_fields _ _ _
theorem EncodeFields.clre : EncodeFields.Statement .clre :=
  packWord_fields _ _ _
theorem EncodeFields.getc (v : RingVal) : EncodeFields.Statement (.getc v) :=
  packWord_fields _ _ _
theorem EncodeFields.getv (ch : CharWord) : EncodeFields.Statement (.getv ch) :=
  packWord_fields _ _ _
theorem EncodeFields.isv (ch : CharWord) : EncodeFields.Statement (.isv ch) :=
  packWord_fields _ _ _
theorem EncodeFields.add (c1 c2 : CharWord) : EncodeFields.Statement (.add c1 c2) :=
  packWord_fields _ _ _
theorem EncodeFields.sub (c1 c2 : CharWord) : EncodeFields.Statement (.sub c1 c2) :=
  packWord_fields _ _ _
theorem EncodeFields.kclr : EncodeFields.Statement .kclr :=
  packWord_fields _ _ _
theorem EncodeFields.kpush (ch : CharWord) : EncodeFields.Statement (.kpush ch) :=
  packWord_fields _ _ _
theorem EncodeFields.setsh (v : RingVal) : EncodeFields.Statement (.setsh v) :=
  packWord_fields _ _ _
theorem EncodeFields.kabuild : EncodeFields.Statement .kabuild :=
  packWord_fields _ _ _
theorem EncodeFields.kard (j : RingVal) : EncodeFields.Statement (.kard j) :=
  packWord_fields _ _ _
theorem EncodeFields.menc (ch : CharWord) : EncodeFields.Statement (.menc ch) :=
  packWord_fields _ _ _
theorem EncodeFields.mdec (ch : CharWord) : EncodeFields.Statement (.mdec ch) :=
  packWord_fields _ _ _
theorem EncodeFields.tbuild : EncodeFields.Statement .tbuild :=
  packWord_fields _ _ _
theorem EncodeFields.trd (j : RingVal) : EncodeFields.Statement (.trd j) :=
  packWord_fields _ _ _
theorem EncodeFields.tshift (target : CharWord) (bias : RingVal) : EncodeFields.Statement (.tshift target bias) :=
  packWord_fields _ _ _
theorem EncodeFields.penc (ch : CharWord) : EncodeFields.Statement (.penc ch) :=
  packWord_fields _ _ _
theorem EncodeFields.pdec (ch : CharWord) : EncodeFields.Statement (.pdec ch) :=
  packWord_fields _ _ _
theorem EncodeFields.sbx (v : RingVal) : EncodeFields.Statement (.sbx v) :=
  packWord_fields _ _ _
theorem EncodeFields.sbxi (w : RingVal) : EncodeFields.Statement (.sbxi w) :=
  packWord_fields _ _ _
theorem EncodeFields.bclr : EncodeFields.Statement .bclr :=
  packWord_fields _ _ _
theorem EncodeFields.bpush (ch : CharWord) : EncodeFields.Statement (.bpush ch) :=
  packWord_fields _ _ _
theorem EncodeFields.bpop : EncodeFields.Statement .bpop :=
  packWord_fields _ _ _
theorem EncodeFields.sbapp : EncodeFields.Statement .sbapp :=
  packWord_fields _ _ _
theorem EncodeFields.sbinv : EncodeFields.Statement .sbinv :=
  packWord_fields _ _ _
theorem EncodeFields.sbkapp : EncodeFields.Statement .sbkapp :=
  packWord_fields _ _ _
theorem EncodeFields.sbkinv : EncodeFields.Statement .sbkinv :=
  packWord_fields _ _ _

end Sys2Proof.Laws
end

