-- ==== Sys2Proof/Laws/Procedures.lean ====
section
/-! SUPPORT. How the text procedures compose: one command, and a sequence of commands. -/

namespace Sys2Proof.Machine

@[simp] theorem andThen_ok {α β : Type} (x : α) (t : State) (k : α → State → ProcResult β) :
    andThen (.ok x, t) k = k x t := rfl

@[simp] theorem andThen_error {α β : Type} (e : ProcError) (t : State) (k : α → State → ProcResult β) :
    andThen (.error e, t) k = (.error e, t) := rfl

theorem andThen_assoc {α β γ : Type} (p : ProcResult α) (k : α → State → ProcResult β)
    (m : β → State → ProcResult γ) :
    andThen (andThen p k) m = andThen p fun x t => andThen (k x t) m := by
  rcases p with ⟨_ | _, _⟩ <;> rfl

/-- A step that takes a placed word runs the command it decodes to (30_encoding.md R90). -/
theorem step_of_exec {w : CmdWord} {i : Instr} {s t : State} (ha : s.awaitingReset = false)
    (hd : decode w = some i) (he : exec i s = .next t) :
    step { s with inputs := .command w :: s.inputs } = .next t := by
  refine (step_command (s := { s with inputs := .command w :: s.inputs }) rfl ha).trans ?_
  simp only [acceptCommand, hd]
  exact he

/-- A command sent by a procedure answers what its meaning answers (46_text_procedures.md R260). -/
theorem call_of_exec {i : Instr} {s t : State} {r : Response} (ha : s.awaitingReset = false)
    (hd : decode (encode i) = some i) (he : exec i s = .next t) (hr : t.responses = s.responses ++ [r]) :
    call i s = (if r.e = 0 then .ok r.r else .error (.engine r.e), t) := by
  rw [call, step_of_exec ha hd he]
  simp [hr]

@[simp] theorem callAll_nil (s : State) : callAll [] s = (.ok [], s) := rfl

theorem callAll_cons (i : Instr) (is : List Instr) (s : State) :
    callAll (i :: is) s = andThen (call i s) fun y t => andThen (callAll is t) fun ys u => (.ok (y :: ys), u) := rfl

/-- A sequence sent in two parts. -/
theorem callAll_append (is js : List Instr) (s : State) :
    callAll (is ++ js) s =
      andThen (callAll is s) fun ys t => andThen (callAll js t) fun zs u => (.ok (ys ++ zs), u) := by
  induction is generalizing s with
  | nil => rcases h : callAll js s with ⟨_ | _, _⟩ <;> simp [h]
  | cons i is ih =>
    rw [List.cons_append, callAll_cons, callAll_cons, andThen_assoc]
    rcases call i s with ⟨_ | y, t⟩
    · rfl
    · simp only [andThen_ok, ih, andThen_assoc]
      rfl

/-- A sequence that is answered without an error is answered once for each command. -/
theorem callAll_length {is : List Instr} {s t : State} {ys : Text} (h : callAll is s = (.ok ys, t)) :
    ys.length = is.length := by
  induction is generalizing s ys with
  | nil => simp at h; simp [← h.1]
  | cons i is ih =>
    rw [callAll_cons] at h
    rcases hc : call i s with ⟨_ | y, u⟩ <;> rw [hc] at h
    · simp at h
    · rcases hr : callAll is u with ⟨_ | zs, v⟩ <;> simp [hr] at h
      obtain ⟨rfl, rfl⟩ := h
      simp [ih hr]

end Sys2Proof.Machine
end

