-- ==== Sys2Proof/Tests/Slice0.lean ====
section
/-! SUPPORT. Tests: the well-formedness smoke, the decoding of a word of every command, one step of every command
(the expected values are the spec's own worked examples), and a witness for the hypotheses of every statement. -/

namespace Sys2Proof.Machine

/-! ### Well-formedness: each check refuses an ill-formed word -/

theorem test_wf_accepts_add : wordWellFormed 0x1304110410 = true := by decide
theorem test_wf_accepts_tshift : wordWellFormed 0x42001F041A = true := by decide
theorem test_wf_refuses_unlisted_opcode : wordWellFormed 0x5900000000 = false := by decide
theorem test_wf_refuses_bit_in_unused_a : wordWellFormed 0x0000000001 = false := by decide
theorem test_wf_refuses_bit_in_unused_b : wordWellFormed 0x1180000410 = false := by decide
theorem test_wf_refuses_bit_above_v5_in_a : wordWellFormed 0x1000000020 = false := by decide
theorem test_wf_refuses_bit_above_v5_in_b : wordWellFormed 0x420020041A = false := by decide
theorem test_wf_refuses_bit_above_n2 : wordWellFormed 0x0200000004 = false := by decide

/-! ### Decoding: a word of every command, written from 30_encoding.md R91, R94, R95 -/

theorem test_decode_nop : decode 0x0000000000 = some .nop := by decide
theorem test_decode_sreset : decode 0x0100000000 = some .sreset := by decide
theorem test_decode_rdcr : decode 0x0200000002 = some (.rdcr 2) := by decide
theorem test_decode_clre : decode 0x0300000000 = some .clre := by decide
theorem test_decode_getc : decode 0x100000001F = some (.getc 31) := by decide
theorem test_decode_getv : decode 0x110000042F = some (.getv 0x042F) := by decide
theorem test_decode_isv : decode 0x120000005F = some (.isv 0x005F) := by decide
theorem test_decode_add : decode 0x1304110410 = some (.add 0x0410 0x0411) := by decide
theorem test_decode_sub : decode 0x1404100411 = some (.sub 0x0411 0x0410) := by decide
theorem test_decode_kclr : decode 0x2000000000 = some .kclr := by decide
theorem test_decode_kpush : decode 0x210000041A = some (.kpush 0x041A) := by decide
theorem test_decode_setsh : decode 0x2200000008 = some (.setsh 8) := by decide
theorem test_decode_kabuild : decode 0x3000000000 = some .kabuild := by decide
theorem test_decode_kard : decode 0x3100000004 = some (.kard 4) := by decide
theorem test_decode_menc : decode 0x3200000410 = some (.menc 0x0410) := by decide
theorem test_decode_mdec : decode 0x3300000418 = some (.mdec 0x0418) := by decide
theorem test_decode_tbuild : decode 0x4000000000 = some .tbuild := by decide
theorem test_decode_trd : decode 0x4100000010 = some (.trd 16) := by decide
theorem test_decode_tshift : decode 0x420004041A = some (.tshift 0x041A 4) := by decide
theorem test_decode_penc : decode 0x430000041F = some (.penc 0x041F) := by decide
theorem test_decode_pdec : decode 0x4400000428 = some (.pdec 0x0428) := by decide
theorem test_decode_sbx : decode 0x5000000004 = some (.sbx 4) := by decide
theorem test_decode_sbxi : decode 0x510000001B = some (.sbxi 27) := by decide
theorem test_decode_bclr : decode 0x5200000000 = some .bclr := by decide
theorem test_decode_bpush : decode 0x530000FFFF = some (.bpush 0xFFFF) := by decide
theorem test_decode_bpop : decode 0x5400000000 = some .bpop := by decide
theorem test_decode_sbapp : decode 0x5500000000 = some .sbapp := by decide
theorem test_decode_sbinv : decode 0x5600000000 = some .sbinv := by decide
theorem test_decode_sbkapp : decode 0x5700000000 = some .sbkapp := by decide
theorem test_decode_sbkinv : decode 0x5800000000 = some .sbkinv := by decide

/-- R97: "any value is accepted and has no effect". -/
theorem test_decode_ignored_bits : decode 0x22FFFFFFE8 = some (.setsh 8) ∧ decode 0x58FFFFFFFF = some .sbkinv ∧
    decode 0x42FFE4041A = some (.tshift 0x041A 4) := by decide

theorem test_encode_words : encode (.add 0x0410 0x0411) = 0x1304110410 ∧ encode (.tshift 0x041A 4) = 0x420004041A ∧
    encode (.rdcr 3) = 0x0200000003 := by decide

/-- R100: the example `ADD 'А', 'Б'`, and "Omitted operands are zero". -/
theorem test_assemble : assemble "ADD" 0x0410 0x0411 = some 0x1304110410 ∧ assemble "SBAPP" 0 0 = some 0x5500000000 ∧
    assemble "HALT" 0 0 = none := by decide

theorem test_table_word : decodeTableWord 40 0x1304110410 = some (.add 0x0410 0x0411) ∧
    decodeTableWord 40 0x5900000000 = none := by decide

/-! ### Small states -/

/-- The first entries of a key, in a buffer filled up with non-members. -/
def keyEntries (l : List KeyEntry) : Vector KeyEntry 32 := Vector.ofFn fun j => l.getD j ⟨false, 0⟩

/-- The key `КЛЮЧ` loaded: ring values 10, 11, 29, 23 (42_keyed_alphabet_mono.md R166). -/
def keyLoaded : State :=
  { State.reset with klen := 4, key := keyEntries [⟨true, 10⟩, ⟨true, 11⟩, ⟨true, 29⟩, ⟨true, 23⟩] }

/-- The table of that key, for both KABUILD (R161) and TBUILD (R182). -/
def keyTable : Table :=
  #v[10, 11, 29, 23, 0, 1, 2, 3, 4, 5, 6, 7, 8, 9, 12, 13, 14, 15, 16, 17, 18, 19, 20, 21, 22, 24, 25, 26, 27, 28, 30, 31]

/-- Both tables built, at the first text position. -/
def tablesBuilt : State := { keyLoaded with ka := keyTable, kav := true, tt := keyTable, ttv := true, bias := 4 }

/-- Tables that are marked valid and hold 0 in every place, which no command builds. -/
def malformed : State :=
  { tablesBuilt with ka := Vector.replicate 32 0, tt := Vector.replicate 32 0 }

/-- A key of `n` entries, all the member 0. -/
def keyOfLength (n : Nat) : State :=
  { State.reset with klen := BitVec.ofNat 6 n, key := Vector.replicate 32 ⟨true, 0⟩ }

/-- A key whose second character is a non-member. -/
def badKey : State := { State.reset with klen := 2, key := keyEntries [⟨true, 10⟩] }

/-- The key `КРИПТОГРАФИЯ_ЛР1` of 44_sblock.md R219. -/
def blockKey : State :=
  { State.reset with
    klen := 16
    key := keyEntries ([10, 16, 8, 15, 18, 14, 3, 16, 0, 20, 8, 30, 31, 11, 16].map fun v => ⟨true, v⟩) }

/-- A glyph table that is not the default one: the glyph of each value R8 leaves open is its number, and one value has a
lower-case glyph. -/
def plainGlyphs : GlyphTable where
  upElided := Vector.ofFn fun j => BitVec.ofNat 16 (j + 3)
  lo := (Vector.replicate 32 none).set 10 (some 40)

/-- `s` in an engine built with that table. -/
def plain (s : State) : State := { s with glyphs := plainGlyphs }

/-- `n` of the four character words are in the block. -/
def holding (b : Block) (n : Nat) (s : State) : State := { s with blk := b, bcnt := BitVec.ofNat 3 n }

/-- The fault state as `fatal` leaves it (60_exceptions.md R288). -/
def faulted : State := { State.reset with flt := true, estk := true, elast := 15 }

/-- Power was applied and no reset has come. -/
def justPowered : State := applyPower State.reset

/-- What one word does: a view of the next state. -/
def after {α : Type} (s : State) (w : Nat) (f : State → α) : Option α :=
  match step (s.withFetchWord 40 w) with
  | .next t => some (f t)
  | _ => none

/-- The error code and the result that one word is answered with. -/
def reply (s : State) (w : Nat) : Option Response := (after s w lastResponse).join

/-! ### One step of every command -/

theorem test_nop : reply State.reset 0x0000000000 = some ⟨0, 0⟩ := by decide
theorem test_nop_in_fault_state : reply faulted 0x0000000000 = some ⟨15, 0⟩ := by decide
theorem test_sreset : after faulted 0x0100000000 (fun t => (t.flt, cr0 t, cr1 t, cr2 t)) =
    some (false, 0x0000, 0x0800, 0x0000) := by decide
theorem test_sreset_answers : reply faulted 0x0100000000 = some ⟨0, 0⟩ := by decide
theorem test_rdcr_ignores_upper_bits : reply State.reset 0x0200000005 = some ⟨0, 0x0800⟩ := by decide
theorem test_rdcr_in_fault_state : reply faulted 0x0200000000 = some ⟨0, 0x00FC⟩ := by decide
theorem test_clre : after { State.reset with estk := true, elast := 6 } 0x0300000000 (fun t => cr0 t &&& 0xF8) =
    some 0 := by decide
theorem test_clre_in_fault_state : after faulted 0x0300000000 (fun t => (t.estk, t.elast)) = some (true, 15) := by
  decide
theorem test_getc_wraps : reply State.reset 0x1000000021 = some ⟨0, 0x0411⟩ := by decide
theorem test_getc_minus_one : reply State.reset 0x100000FFFF = some ⟨0, 0x005F⟩ := by decide
theorem test_getv_lower_case : reply State.reset 0x110000044F = some ⟨0, 30⟩ := by decide
theorem test_getv_sentinel : reply State.reset 0x1100000021 = some ⟨0, 0⟩ := by decide
theorem test_isv_member : reply State.reset 0x120000043A = some ⟨0, 1⟩ := by decide
theorem test_isv_non_member : reply State.reset 0x1200000401 = some ⟨0, 0⟩ := by decide
theorem test_add : reply State.reset 0x1304110410 = some ⟨0, 0x0411⟩ := by decide
theorem test_add_wraps : reply State.reset 0x13005F042F = some ⟨0, 0x042E⟩ := by decide
theorem test_sub : reply State.reset 0x1404100411 = some ⟨0, 0x0411⟩ := by decide
theorem test_sub_wraps : reply State.reset 0x1404110410 = some ⟨0, 0x005F⟩ := by decide
theorem test_kclr : after tablesBuilt 0x2000000000 (fun t => (cr1 t, t.kav, t.ttv, t.bias)) =
    some (0x0800, false, false, 4) := by decide
theorem test_kpush : after badKey 0x210000043A (fun t => (t.klen, t.key[2])) = some (3, ⟨true, 10⟩) := by decide
theorem test_kpush_full : reply (keyOfLength 32) 0x210000041A = some ⟨7, 0⟩ := by decide
theorem test_setsh_wraps : after State.reset 0x2200000028 (fun t => t.shift) = some 8 := by decide
theorem test_setsh_keeps_tables : after tablesBuilt 0x220000001F (fun t => (t.shift, t.kav, t.ttv)) =
    some (31, true, true) := by decide
theorem test_kabuild : after keyLoaded 0x3000000000 (fun t => (t.ka, t.kav)) = some (keyTable, true) := by decide +kernel
theorem test_kard_wraps : reply tablesBuilt 0x3100000020 = some ⟨0, 0x041A⟩ := by decide
theorem test_kard_without_alphabet : reply keyLoaded 0x3100000000 = some ⟨4, 0⟩ := by decide
theorem test_menc : reply tablesBuilt 0x3200000410 = some ⟨0, 0x0418⟩ := by decide
theorem test_menc_wraps : reply tablesBuilt 0x320000005F = some ⟨0, 0x0413⟩ := by decide
theorem test_mdec : reply tablesBuilt 0x3300000413 = some ⟨0, 0x005F⟩ := by decide
theorem test_mdec_fatal : after malformed 0x330000041A (fun t => (t.flt, t.estk, t.elast)) =
    some (true, true, 15) := by decide
theorem test_tbuild : after keyLoaded 0x4000000000 (fun t => (t.tt, cr2 t)) = some (keyTable, 0x0400) := by decide +kernel
theorem test_tbuild_non_member : reply badKey 0x4000000000 = some ⟨8, 0⟩ := by decide
theorem test_trd : reply tablesBuilt 0x4100000004 = some ⟨0, 0x0410⟩ := by decide
theorem test_trd_without_table : reply keyLoaded 0x4100000004 = some ⟨5, 0⟩ := by decide
theorem test_tshift_probes : after tablesBuilt 0x420004041A (fun t => (lastResponse t, t.tt.toList.take 6)) =
    some (some ⟨0, 0x041C⟩, [12, 10, 11, 29, 23, 0]) := by decide
theorem test_tshift_direct : reply tablesBuilt 0x4200040413 = some ⟨0, 0x0413⟩ := by decide
theorem test_penc : after tablesBuilt 0x430000041F (fun t => (lastResponse t, t.tt.toList.take 6, cr2 t)) =
    some (some ⟨0, 0x0428⟩, [12, 10, 11, 29, 23, 0], 0x0501) := by decide
theorem test_penc_non_member : after tablesBuilt 0x430000002C (fun t => (lastResponse t, t.tt, cr2 t)) =
    some (some ⟨0, 0x002C⟩, keyTable, 0x0501) := by decide
theorem test_pdec : after tablesBuilt 0x4400000428 (fun t => (lastResponse t, t.tt.toList.take 6, cr2 t)) =
    some (some ⟨0, 0x041F⟩, [12, 10, 11, 29, 23, 0], 0x0501) := by decide
theorem test_pdec_empty_key : reply State.reset 0x4400000430 = some ⟨0, 0x0430⟩ := by decide
theorem test_sbx_wraps : reply State.reset 0x5000000024 = some ⟨0, 31⟩ := by decide
theorem test_sbxi : reply State.reset 0x5100000000 = some ⟨0, 27⟩ := by decide
theorem test_bclr : after (holding #v[1, 2, 3, 4] 4 State.reset) 0x5200000000 (fun t => t.bcnt) = some 0 := by decide
theorem test_bpush : after (holding #v[1, 2, 3, 0] 3 State.reset) 0x530000044F (fun t => (t.blk, t.bcnt)) =
    some (#v[1, 2, 3, 0x044F], 4) := by decide
theorem test_bpush_full : reply (holding #v[1, 2, 3, 4] 4 State.reset) 0x5300000410 = some ⟨3, 0⟩ := by decide
theorem test_bpop : after (holding #v[0x0410, 0x0411, 3, 4] 2 State.reset) 0x5400000000
    (fun t => (lastResponse t, t.blk[0], t.bcnt)) = some (some ⟨0, 0x0410⟩, 0x0411, 1) := by decide
theorem test_bpop_empty : reply State.reset 0x5400000000 = some ⟨6, 0⟩ := by decide
theorem test_sbapp : after (holding #v[0x005F, 0x044F, 0x0021, 0x0410] 4 State.reset) 0x5500000000 (fun t => t.blk) =
    some #v[0x042D, 0x042B, 0x0021, 0x0422] := by decide
theorem test_sbapp_short_block : reply (holding #v[1, 2, 3, 4] 3 State.reset) 0x5500000000 = some ⟨3, 0⟩ := by decide
theorem test_sbinv : after (holding #v[0x0413, 0x0418, 0x041D, 0x0422] 4 State.reset) 0x5600000000 (fun t => t.blk) =
    some #v[0x0410, 0x0410, 0x0410, 0x0410] := by decide
theorem test_sbkapp : after (holding #v[0x0410, 0x0410, 0x0021, 0x044F] 4 blockKey) 0x5700000000 (fun t => t.blk) =
    some #v[0x041D, 0x0428, 0x0021, 0x0423] := by decide
theorem test_sbkapp_key_length_first : reply keyLoaded 0x5700000000 = some ⟨2, 0⟩ := by decide
theorem test_sbkinv : after (holding #v[0x041D, 0x0428, 0x0021, 0x0423] 4 blockKey) 0x5800000000 (fun t => t.blk) =
    some #v[0x0410, 0x0410, 0x0021, 0x042F] := by decide
theorem test_illegal_opcode : reply State.reset 0x5900000000 = some ⟨1, 0⟩ := by decide
theorem test_response_words : responseWord ⟨0, 0x0411⟩ = 0x00411 ∧ responseWord ⟨6, 0⟩ = 0x60000 := by decide
theorem test_illegal_opcode_in_fault_state : reply faulted 0x5900000000 = some ⟨15, 0⟩ := by decide

/-- The glyph table is a parameter with five fixed entries (00_scope.md R8): with another table other words are members,
but `А` and `Б` add as ever. -/
theorem test_add_other_glyphs : reply (plain State.reset) 0x1300040003 = some ⟨0, 7⟩ ∧
    reply (plain State.reset) 0x1200000413 = some ⟨0, 0⟩ ∧
    reply (plain State.reset) 0x1304110410 = some ⟨0, 0x0411⟩ ∧
    after (plain State.reset) 0x0100000000 (fun t => t.glyphs) = some plainGlyphs :=
  ⟨by decide, by decide, by decide, rfl⟩

/-! ### Witnesses: a state and operands that meet the hypotheses of each statement, clause by clause -/

/-- `s` with one input waiting. -/
def sent (h : HostInput) (s : State) : State := { s with inputs := [h] }

/-- The invariants of R37 hold with a key and both tables built. -/
theorem test_witness_EngineInv : EngineInv tablesBuilt where
  klen_le := by decide
  bcnt_le := by decide
  ka_perm _ := by unfold IsPermutation; decide +kernel
  tt_perm _ := by unfold IsPermutation; decide +kernel
  key_members _ := by decide
  kidx_lt _ _ := by decide
  key_sentinel := by decide
  not_faulted := by decide

/-- The same in an engine with the plain glyph table. -/
theorem plain_EngineInv : EngineInv (plain tablesBuilt) :=
  ⟨test_witness_EngineInv.1, test_witness_EngineInv.2, test_witness_EngineInv.3, test_witness_EngineInv.4,
    test_witness_EngineInv.5, test_witness_EngineInv.6, test_witness_EngineInv.7, test_witness_EngineInv.8⟩

/-- The plain glyph table meets the constraint of R8. -/
theorem plainGlyphs_valid : plainGlyphs.Valid := by
  have up_injective : ∀ v w, plainGlyphs.upAt v = plainGlyphs.upAt w → v = w := by decide +kernel
  have up_ne : ∀ v, plainGlyphs.upAt v ≠ 40 := by decide
  have lo_eq : ∀ v, plainGlyphs.loAt v = if v = 10 then some 40 else none := by decide
  have lo_only {v : RingVal} {ch : CharWord} (h : plainGlyphs.loAt v = some ch) : v = 10 ∧ ch = 40 := by
    rw [lo_eq] at h
    split at h <;> simp_all
  intro v w ch hv hw
  simp only [GlyphTable.hasGlyph, Bool.or_eq_true, beq_iff_eq] at hv hw
  obtain rfl | hv := hv <;> obtain hw | hw := hw
  · exact up_injective v w hw
  · exact absurd (lo_only hw).2 (up_ne v)
  · exact absurd (hw.symm.trans (lo_only hv).2) (up_ne w)
  · exact (lo_only hv).1.trans (lo_only hw).1.symm

theorem test_witness_CanonicalWordEncodesBack :
    decode 0x420004041A = some (.tshift 0x041A 4) ∧ wordWellFormed 0x420004041A = true ∧
    decode 0x42FFE4041A = some (.tshift 0x041A 4) ∧ wordWellFormed 0x42FFE4041A = false := by decide

/-- Both ends of every range of R96. -/
theorem test_witness_UnlistedOpcodesAreIllegal :
    (∀ op ∈ [0x04, 0x0F, 0x15, 0x1F, 0x23, 0x2F, 0x34, 0x3F, 0x45, 0x4F, 0x59, 0xFF], unlistedOpcode op = true) ∧
    (∀ op ∈ [0x00, 0x03, 0x10, 0x14, 0x20, 0x22, 0x30, 0x33, 0x40, 0x44, 0x50, 0x58], unlistedOpcode op = false) ∧
    (sent (.command 0x5900000000) State.reset).inputs = [.command 0x5900000000] ∧
    (sent (.command 0x5900000000) State.reset).awaitingReset = false ∧
    (sent (.command 0x5900000000) State.reset).flt = false ∧
    unlistedOpcode (opField 0x5900000000).toNat = true := by decide

theorem test_witness_IgnoredBitsHaveNoEffect :
    operandUses (opField 0x420004041A) = some (.ch, .v5) ∧ opField 0x42FFE4041A = opField 0x420004041A ∧
    aField 0x42FFE4041A &&& OperandUse.ch.mask = aField 0x420004041A &&& OperandUse.ch.mask ∧
    bField 0x42FFE4041A &&& OperandUse.v5.mask = bField 0x420004041A &&& OperandUse.v5.mask ∧
    (0x42FFE4041A : CmdWord) ≠ 0x420004041A := by decide

theorem test_witness_StepRunsDecodedCommand :
    (sent (.command 0x1304110410) tablesBuilt).inputs = [.command 0x1304110410] ∧
    (sent (.command 0x1304110410) tablesBuilt).awaitingReset = false ∧
    decode 0x1304110410 = some (.add 0x0410 0x0411) := by decide

theorem test_witness_EveryCommandGetsOneResponse :
    (sent (.command 0x5900000000) faulted).inputs = [.command 0x5900000000] ∧
    (sent (.command 0x5900000000) faulted).awaitingReset = false ∧
    ∀ (w : CmdWord) (rest : List HostInput), (sent .rst faulted).inputs ≠ .command w :: rest :=
  ⟨rfl, rfl, fun _ _ h => by cases h⟩

theorem test_witness_RstAndSresetGiveTheSameState : (sent .rst tablesBuilt).inputs = [.rst] := rfl

theorem test_witness_CommandsBeforeTheFirstResetAreRefused :
    (sent .powerOn tablesBuilt).inputs = [.powerOn] ∧
    (sent (.command 0) justPowered).inputs = [.command 0] ∧ (sent (.command 0) justPowered).awaitingReset = true ∧
    decode 0 ≠ some .sreset ∧ decode 0x0100000000 = some .sreset ∧
    (sent (.command 0x0100000000) justPowered).inputs = [.command 0x0100000000] ∧
    (sent .rst justPowered).inputs = [.rst] := ⟨rfl, rfl, rfl, by decide, by decide, rfl, rfl⟩

/-- A step that moves the table, from a state with a table. -/
theorem test_witness_StepKeepsTheInvariants :
    ∃ s t : State, Inv s ∧ s.awaitingReset = false ∧ s.ttv = true ∧ step s = .next t ∧ t.tt ≠ s.tt := by
  refine ⟨sent (.command 0x420004041A) tablesBuilt, _, fun _ => ?_, by decide, by decide, rfl, by decide⟩
  exact ⟨test_witness_EngineInv.1, test_witness_EngineInv.2, test_witness_EngineInv.3, test_witness_EngineInv.4,
    test_witness_EngineInv.5, test_witness_EngineInv.6, test_witness_EngineInv.7, test_witness_EngineInv.8⟩

theorem test_witness_StepKeepsErrorFlagsLegal :
    ErrorFlagsLegal faulted ∧ ∃ t : State, step (sent (.command 0x5900000000) faulted) = .next t ∧
      t.awaitingReset = false :=
  ⟨⟨.inr (by decide), fun _ => by decide⟩, _, rfl, by decide⟩

/-- Two states that differ in an array entry that is not meaningful, one of them with a step, one refused. -/
theorem test_witness_UnspecifiedContentsAreUnobservable :
    ∃ s s' : State, Inv s ∧ Inv s' ∧ SameToHost s s' ∧ s.blk ≠ s'.blk ∧ ∃ t : State, step s = .next t := by
  refine ⟨sent (.command 0) (holding #v[1, 2, 3, 4] 3 keyLoaded), sent (.command 0) (holding #v[1, 2, 3, 5] 3 keyLoaded),
    fun _ => ?_, fun _ => ?_, ⟨rfl, rfl, rfl, rfl, fun _ => ?_⟩, by decide, _, rfl⟩
  · exact ⟨by decide, by decide, fun h => (by cases h), fun h => (by cases h), by decide, by decide, by decide, rfl⟩
  · exact ⟨by decide, by decide, fun h => (by cases h), fun h => (by cases h), by decide, by decide, by decide, rfl⟩
  · exact ⟨rfl, rfl, rfl, rfl, rfl, rfl, rfl, rfl, rfl, rfl, rfl, fun _ => rfl, fun _ => rfl, by decide⟩

theorem test_witness_UnspecifiedContents_refusal :
    Inv (sent (.command 0) justPowered) ∧ SameToHost (sent (.command 0) justPowered) (sent (.command 0) justPowered) ∧
    step (sent (.command 0) justPowered) = .refused .commandBeforeReset :=
  ⟨fun h => (by cases h), ⟨rfl, rfl, rfl, rfl, fun h => (by cases h)⟩, rfl⟩

theorem test_witness_FaultStateRefusesCommands :
    faulted.flt = true ∧ faulted.estk = true ∧ faulted.elast = 15 ∧ Instr.clre ≠ .sreset ∧
    (∀ n, Instr.clre ≠ .rdcr n) ∧ decode 0x5900000000 = none ∧ (sent .rst faulted).awaitingReset = false ∧
    (∀ rest, (sent .rst faulted).inputs ≠ .powerOn :: rest) ∧
    (∃ t, step (sent .rst faulted) = .next t ∧ t.flt = false) ∧
    (∃ t, step (sent (.command 0x0100000000) faulted) = .next t ∧ t.flt = false) ∧
    (∃ t, step (sent (.command 0x0300000000) faulted) = .next t ∧ t.flt = true) ∧
    ∃ t, malformed.flt = false ∧ exec (.menc 0x041A) malformed = .next t ∧ t.flt = true :=
  ⟨rfl, rfl, rfl, by decide, by decide, by decide, rfl, fun _ h => (by cases h), ⟨_, rfl, rfl⟩, ⟨_, rfl, rfl⟩,
    ⟨_, rfl, rfl⟩, _, rfl, rfl, by decide⟩

theorem test_witness_ErrorsChangeOnlyTheErrorRegisters :
    State.reset.flt = false ∧
    (∃ t : State, exec .bpop State.reset = .next t ∧ t.responses = State.reset.responses ++ [⟨6, 0⟩]) ∧
    (∃ t : State, exec (.penc 0x041A) malformed = .next t ∧ t.responses = malformed.responses ++ [⟨15, 0⟩]) ∧
    ∃ t : State, step (sent (.command 0x5900000000) State.reset) = .next t ∧
      t.responses = (sent (.command 0x5900000000) State.reset).responses ++ [⟨1, 0⟩] :=
  ⟨rfl, ⟨_, rfl, rfl⟩, ⟨_, rfl, by decide⟩, _, rfl, rfl⟩

theorem test_witness_EachCommandAnswersOnlyItsErrors :
    keyLoaded.flt = false ∧ ∃ t : State, exec .sbkapp keyLoaded = .next t ∧
      t.responses = keyLoaded.responses ++ [⟨2, 0⟩] := ⟨rfl, _, rfl, rfl⟩

theorem test_witness_ErrorRegistersAreSticky :
    ∃ t : State, exec .kclr { State.reset with estk := true, elast := 6 } = .next t ∧
      t.responses = State.reset.responses ++ [⟨0, 0⟩] ∧ Instr.kclr ≠ .clre ∧ Instr.kclr ≠ .sreset :=
  ⟨_, rfl, rfl, by decide, by decide⟩

theorem test_witness_WriteMatrixHolds : ∃ t : State, exec (.penc 0x041F) tablesBuilt = .next t := ⟨_, rfl⟩

theorem test_witness_ReadMatrixHolds :
    ∃ t t' : State, exec (.rdcr 0) tablesBuilt = .next t ∧
      exec (.rdcr 0) (holding #v[1, 2, 3, 4] 0 tablesBuilt) = .next t' ∧
      (∀ e ∈ reads (.rdcr 0), SameElem e tablesBuilt (holding #v[1, 2, 3, 4] 0 tablesBuilt)) ∧
      t.responses = tablesBuilt.responses ++ [⟨0, 3⟩] ∧ t'.responses = tablesBuilt.responses ++ [⟨0, 3⟩] := by
  refine ⟨_, _, rfl, rfl, ?_, by decide, by decide⟩
  intro e he
  cases e <;> first | rfl | exact absurd he (by decide)

theorem test_witness_NopDoesNothing : State.reset.flt = false ∧ faulted.flt = true := ⟨rfl, rfl⟩

theorem test_witness_SresetResetsTheEngine : faulted.flt = true ∧ ∃ t : State, exec .sreset faulted = .next t ∧
    t.flt = false := ⟨rfl, _, rfl, rfl⟩

theorem test_witness_ClreAcknowledgesAnError : State.reset.flt = false ∧ State.reset.bcnt = 0 ∧ faulted.flt = true :=
  ⟨rfl, rfl, rfl⟩

theorem test_witness_GetcAnswersTheGlyph : tablesBuilt.flt = false := rfl

/-- The glyph of the first and of the last ring value, a lower-case glyph, and a word that is no glyph. -/
theorem test_witness_GetvAndIsvLookUpTheSymbol : (plain State.reset).flt = false ∧ (plain State.reset).glyphs.Valid ∧
    (plain State.reset).glyphs.hasGlyph 31 0x005F = true ∧ (plain State.reset).glyphs.hasGlyph 0 0x0410 = true ∧
    (plain State.reset).glyphs.hasGlyph 10 40 = true ∧ ∀ v, (plain State.reset).glyphs.hasGlyph v 32 = false :=
  ⟨rfl, plainGlyphs_valid, by decide, by decide, by decide, by decide⟩

theorem test_witness_AddAndSubWorkModulo32 : State.reset.flt = false := rfl

theorem test_witness_SubUndoesAdd : (plain tablesBuilt).flt = false ∧ (plain tablesBuilt).glyphs.Valid :=
  ⟨rfl, plainGlyphs_valid⟩

theorem test_witness_ClassifyFollowsAnyValidGlyphTable :
    plainGlyphs.Valid ∧ plainGlyphs.hasGlyph 3 3 = true ∧ ∀ v, plainGlyphs.hasGlyph v 32 = false :=
  ⟨plainGlyphs_valid, by decide, by decide⟩

theorem test_witness_KclrStartsANewKey : tablesBuilt.flt = false ∧ tablesBuilt.shift = 8 ∧
    ∃ t : State, exec .kclr tablesBuilt = .next t := ⟨rfl, rfl, _, rfl⟩

theorem test_witness_KpushAppendsOneCharacter : (keyOfLength 31).klen.toNat < 32 ∧ (keyOfLength 31).flt = false ∧
    (keyOfLength 32).klen = 32 ∧ (keyOfLength 32).flt = false ∧
    plainGlyphs.Valid ∧ plainGlyphs.loAt 10 = some 40 ∧ ∀ v, plainGlyphs.hasGlyph v 0x0031 = false :=
  ⟨by decide, by decide, by decide, by decide, plainGlyphs_valid, by decide, by decide⟩

theorem test_witness_SetshSetsTheShift : tablesBuilt.flt = false := rfl

/-- A key of 32 characters and one of 33. -/
theorem test_witness_LoadkeyLoadsTheClassifiedKey : Ready tablesBuilt ∧
    (List.replicate 32 (0x0410 : CharWord)).length ≤ 32 ∧ 32 < (List.replicate 33 (0x0410 : CharWord)).length := by
  unfold Ready; decide

theorem test_witness_KabuildBuildsTheKeyedAlphabet : keyLoaded.flt = false := rfl

theorem test_witness_KardAndTrdReadOneEntry : tablesBuilt.flt = false ∧ tablesBuilt.kav = true ∧
    tablesBuilt.ttv = true ∧ keyLoaded.flt = false ∧ keyLoaded.kav = false ∧ keyLoaded.ttv = false := by decide

theorem test_witness_MencAndMdecSubstitute :
    tablesBuilt.flt = false ∧ State.reset.klen = 0 ∧ keyLoaded.klen ≠ 0 ∧ keyLoaded.kav = false ∧
    tablesBuilt.klen ≠ 0 ∧ tablesBuilt.kav = true ∧ (classify defaultGlyphs 0x002C).m = false ∧
    (classify defaultGlyphs 0x005F).m = true ∧
    IsFirstIndex tablesBuilt.ka (val defaultGlyphs 0x005F) 31 ∧ malformed.flt = false ∧ malformed.klen ≠ 0 ∧
    malformed.kav = true ∧ ∀ j : RingVal, entry malformed.ka j ≠ val defaultGlyphs 0x005F := by
  unfold IsFirstIndex; decide

/-- For (a) and (b) both tables built, for (c) the empty key, for (d) the key loaded, for (e) a MENC that succeeds. -/
theorem test_witness_MdecUndoesMenc :
    (EngineInv (plain tablesBuilt) ∧ ∃ t : State, exec (.menc 10) (plain tablesBuilt) = .next t) ∧
    ((plain tablesBuilt).glyphs.Valid ∧ (plain tablesBuilt).klen ≠ 0 ∧ (plain tablesBuilt).kav = true) ∧
    (State.reset.flt = false ∧ State.reset.klen = 0) ∧
    ((plain keyLoaded).flt = false ∧ (plain keyLoaded).glyphs.Valid ∧ (plain keyLoaded).klen ≠ 0 ∧
      loadedKey (plain keyLoaded) = sourceKey ∧ (plain keyLoaded).shift = 8) ∧
    ∃ t : State, exec (.menc 10) (plain tablesBuilt) = .next t ∧
      t.responses = (plain tablesBuilt).responses ++ [⟨0, 4⟩] :=
  ⟨⟨plain_EngineInv, _, rfl⟩, ⟨plainGlyphs_valid, by decide, rfl⟩, by decide,
    ⟨rfl, plainGlyphs_valid, by decide, by decide, rfl⟩, _, rfl, by decide⟩

theorem test_witness_TbuildGivesAPermutation :
    (∀ e ∈ loadedKey keyLoaded, e.m = true) ∧ (memberValues (loadedKey keyLoaded)).Nodup := by decide

theorem test_witness_TbuildPlacesTheFirstFreeSuccessor : (loadedKey (keyOfLength 32)).length ≤ 32 ∧
    32 < (List.replicate 33 (⟨true, 0⟩ : KeyEntry)).length := by decide

theorem test_witness_TbuildBuildsTheTable : (keyOfLength 32).flt = false ∧ badKey.flt = false ∧
    (∀ e ∈ loadedKey (keyOfLength 32), e.m = true) ∧ ∃ e ∈ loadedKey badKey, e.m = false := by decide

/-- Key entry `К` at bias 0 and at bias 31 of the table of `КЛЮЧ`; a fallback pivot; no pivot. -/
theorem test_witness_TableShiftFollowsTheRule :
    IsFirstFrom keyTable 31 (fun x => true = true ∧ x = 10 + BitVec.ofNat 5 21) 31 ∧
    (∀ q, ¬ IsFirstFrom keyTable 7 (fun x => false = true ∧ x = 0) q) ∧
    IsFirstFrom keyTable 7 (fun x => x ∉ keyTable.toList.take 7) 7 ∧
    ∀ q, ¬ IsFirstFrom malformed.tt 1 (fun x => x ∉ malformed.tt.toList.take 1) q := by
  refine ⟨⟨by decide, by decide, by decide, fun j h1 h2 => by omega⟩, fun q h => by simpa using h.2.2.1,
    ⟨by decide, by decide, by decide, fun j h1 h2 => by omega⟩, fun q h => ?_⟩
  have all : ∀ q < 32, malformed.tt.toList.getD q 0 ∈ malformed.tt.toList.take 1 := by decide
  exact h.2.2.1 (all q h.2.1)

theorem test_witness_ShiftMovesThePivotToTheFront : IsPermutation keyTable ∧ (classify defaultGlyphs 0x0021).m = false ∧
    (classify defaultGlyphs 0x041A).m = true :=
  ⟨test_witness_EngineInv.tt_perm rfl, by decide, by decide⟩

theorem test_witness_TshiftAppliesOneShift : tablesBuilt.flt = false ∧ tablesBuilt.ttv = true ∧
    keyLoaded.ttv = false ∧ malformed.flt = false ∧ malformed.ttv = true ∧
    (shiftTable tablesBuilt.tt (classify defaultGlyphs 0x041A) 4).isSome = true ∧
    shiftTable malformed.tt (classify defaultGlyphs 0x0021) 1 = none := by decide

theorem test_witness_PencAndPdecTakeOneStep :
    tablesBuilt.flt = false ∧ State.reset.klen = 0 ∧ keyLoaded.klen ≠ 0 ∧ keyLoaded.ttv = false ∧
    tablesBuilt.klen ≠ 0 ∧ tablesBuilt.ttv = true ∧ (classify defaultGlyphs 0x002C).m = false ∧
    (classify defaultGlyphs 0x005F).m = true ∧
    IsFirstIndex tablesBuilt.tt (val defaultGlyphs 0x005F) 31 ∧
    (shiftTable tablesBuilt.tt (entry tablesBuilt.key tablesBuilt.kidx) tablesBuilt.bias).isSome = true ∧
    malformed.flt = false ∧ malformed.klen ≠ 0 ∧ malformed.ttv = true ∧
    ∀ j : RingVal, entry malformed.tt j ≠ val defaultGlyphs 0x005F := by
  unfold IsFirstIndex; decide

/-- The other way to `fatal`: the symbol has an index but the shift finds no pivot. -/
theorem test_witness_PencAndPdec_noPivot : (classify defaultGlyphs 0x0410).m = true ∧ val defaultGlyphs 0x0410 = 0 ∧
    shiftTable malformed.tt (entry malformed.key 0) malformed.bias = none := by decide

theorem test_witness_BlockBufferIsAQueue :
    (holding #v[1, 2, 3, 4] 3 State.reset).bcnt.toNat < 4 ∧ (holding #v[1, 2, 3, 4] 4 State.reset).bcnt = 4 ∧
    1 ≤ (holding #v[1, 2, 3, 4] 1 State.reset).bcnt.toNat ∧ (holding #v[1, 2, 3, 4] 4 State.reset).bcnt.toNat ≤ 4 ∧
    State.reset.bcnt = 0 ∧ (holding #v[1, 2, 3, 4] 4 State.reset).flt = false := by decide

theorem test_witness_SboxAndItsInverse : State.reset.flt = false := rfl

theorem test_witness_SbappAndSbinvTransformTheBlock :
    (holding #v[0x0410, 0x044F, 0x0021, 0x005F] 4 State.reset).flt = false ∧
    (holding #v[0x0410, 0x044F, 0x0021, 0x005F] 4 State.reset).bcnt = 4 ∧ (classify defaultGlyphs 0x0021).m = false ∧
    (classify defaultGlyphs 0x044F).m = true ∧ (holding #v[0x0410, 0x044F, 0x0021, 0x005F] 3 State.reset).bcnt ≠ 4 := by
  decide

/-- Key lengths 16, 15 and 17, with four and three symbols in the block. -/
theorem test_witness_SbkappAndSbkinvTransformTheBlock :
    (holding #v[0x0410, 0x044F, 0x0021, 0x005F] 4 blockKey).flt = false ∧
    (holding #v[0x0410, 0x044F, 0x0021, 0x005F] 4 blockKey).klen = 16 ∧
    (holding #v[0x0410, 0x044F, 0x0021, 0x005F] 4 blockKey).bcnt = 4 ∧
    (holding #v[0x0410, 0x044F, 0x0021, 0x005F] 3 blockKey).bcnt ≠ 4 ∧
    (keyOfLength 15).klen ≠ 16 ∧ (keyOfLength 17).klen ≠ 16 := by decide

theorem test_witness_BlockTransformsAreInverse :
    (holding #v[0x0410, 0x005F, 40, 0xFFFF] 4 (plain blockKey)).flt = false ∧
    (holding #v[0x0410, 0x005F, 40, 0xFFFF] 4 (plain blockKey)).glyphs.Valid ∧
    (holding #v[0x0410, 0x005F, 40, 0xFFFF] 4 (plain blockKey)).bcnt = 4 ∧
    (holding #v[0x0410, 0x005F, 40, 0xFFFF] 4 (plain blockKey)).klen = 16 := ⟨rfl, plainGlyphs_valid, rfl, rfl⟩

/-- A key of four members of the plain glyph table. -/
def sampleKey : Text := [10, 11, 29, 23]

/-- Members, non-members and the filler, in the plain glyph table. -/
def sampleText : Text := [4, 0x0410, 0x002C, 32, 13, 0x005F]

theorem sampleKey_members : ∀ c ∈ sampleKey, (classify (plain tablesBuilt).glyphs c).m = true := by
  simp only [sampleKey, List.forall_mem_cons, List.not_mem_nil, false_implies, implies_true]
  decide

theorem test_witness_SimpleCipherRoundTrips :
    Ready (plain tablesBuilt) ∧ (plain tablesBuilt).glyphs.Valid ∧ sampleKey.length ≤ 32 ∧
    ∀ c ∈ sampleText, UpperOrNonMember (plain tablesBuilt).glyphs c := by
  refine ⟨⟨rfl, rfl⟩, plainGlyphs_valid, by decide, ?_⟩
  simp only [sampleText, List.forall_mem_cons, List.not_mem_nil, false_implies, implies_true]
  unfold UpperOrNonMember
  decide

theorem test_witness_PolyalphabeticCipherRoundTrips :
    Ready (plain tablesBuilt) ∧ (plain tablesBuilt).glyphs.Valid ∧ sampleKey.length ≤ 32 ∧ sampleKey ≠ [] ∧
    (∀ c ∈ sampleKey, (classify (plain tablesBuilt).glyphs c).m = true) ∧
    ∀ c ∈ sampleText, UpperOrNonMember (plain tablesBuilt).glyphs c :=
  ⟨⟨rfl, rfl⟩, plainGlyphs_valid, by decide, by decide, sampleKey_members,
    test_witness_SimpleCipherRoundTrips.2.2.2⟩

/-- The text with two of its members changed. -/
theorem test_witness_PolyTableSequenceIgnoresTheData :
    Ready (plain tablesBuilt) ∧ (plain tablesBuilt).glyphs.Valid ∧ sampleKey.length ≤ 32 ∧ sampleKey ≠ [] ∧
    (∀ c ∈ sampleKey, (classify (plain tablesBuilt).glyphs c).m = true) ∧
    List.Forall₂ (fun a b => a = b ∨
        ((classify (plain tablesBuilt).glyphs a).m = true ∧ (classify (plain tablesBuilt).glyphs b).m = true))
      sampleText [4, 0x042F, 0x002C, 32, 40, 0x005F] :=
  ⟨⟨rfl, rfl⟩, plainGlyphs_valid, by decide, by decide, sampleKey_members,
    .cons (.inl rfl) (.cons (.inr (by decide)) (.cons (.inl rfl) (.cons (.inl rfl)
      (.cons (.inr (by decide)) (.cons (.inl rfl) .nil)))))⟩

theorem test_witness_EnhancedPipelineRoundTrips :
    Ready (plain tablesBuilt) ∧ (plain tablesBuilt).glyphs.Valid ∧ sampleKey.length ≤ 32 ∧
    (∀ c ∈ sampleKey, (classify (plain tablesBuilt).glyphs c).m = true) ∧
    ∀ c ∈ sampleText, UpperOrNonMember (plain tablesBuilt).glyphs c :=
  ⟨⟨rfl, rfl⟩, plainGlyphs_valid, by decide, sampleKey_members, test_witness_SimpleCipherRoundTrips.2.2.2⟩

theorem test_witness_SBlockCipherRoundTrips : Ready (plain tablesBuilt) ∧ (plain tablesBuilt).glyphs.Valid ∧
    (List.replicate 16 (40 : CharWord)).length = 16 ∧ sampleText.length % 4 = 2 ∧
    (sampleText ++ [0x005F, 40]).length % 4 = 0 := ⟨⟨rfl, rfl⟩, plainGlyphs_valid, by decide, by decide, by decide⟩

theorem test_witness_SBlockLengthErrorsComeFirst :
    (List.replicate 15 (0x0410 : CharWord)).length ≠ 16 ∧ (List.replicate 17 (0x0410 : CharWord)).length ≠ 16 ∧
    (List.replicate 16 (0x0410 : CharWord)).length = 16 ∧ ([0x0410] : Text).length % 4 ≠ 0 := by decide

theorem test_witness_EmptyKeyIsTheIdentity : Ready tablesBuilt := by unfold Ready; decide

theorem test_witness_CustomAlphabetStringShowsTheKeyedAlphabet : Ready tablesBuilt ∧
    ([0x0031, 0x0021] : Text).length ≤ 32 ∧
    ∀ c ∈ ([0x0031, 0x0021] : Text), (classify tablesBuilt.glyphs c).m = false := by
  simp only [List.forall_mem_cons, List.not_mem_nil, false_implies, implies_true]
  unfold Ready
  decide

end Sys2Proof.Machine
end

section
/-! PROOFS. Glyph tables (00_scope.md R8, R9) and `classify` over them (R14). -/

namespace Sys2Proof.Machine

/-! ### The glyphs of a ring value -/

/-- The character words of a ring value in the table: `ALPHA_UP[v]`, and `ALPHA_LO[v]` where it has one. -/
def glyphsOf (g : GlyphTable) (v : RingVal) : List CharWord := g.upAt v :: (g.loAt v).toList

theorem hasGlyph_iff_mem_glyphsOf {g : GlyphTable} {v : RingVal} {ch : CharWord} :
    g.hasGlyph v ch = true ↔ ch ∈ glyphsOf g v := by
  simp [GlyphTable.hasGlyph, glyphsOf]

@[simp] theorem hasGlyph_upAt (g : GlyphTable) (v : RingVal) : g.hasGlyph v (g.upAt v) = true :=
  hasGlyph_iff_mem_glyphsOf.2 List.mem_cons_self

/-- A table in which no character word appears twice meets the constraint of R8. -/
theorem valid_of_nodup {g : GlyphTable} (h : (ringValues.flatMap (glyphsOf g)).Nodup) : g.Valid := by
  have hdisjoint := (List.nodup_flatMap.1 h).2
  have hsymm : Std.Symm (Function.onFun List.Disjoint (glyphsOf g)) := ⟨fun _ _ hd => hd.symm⟩
  intro v w ch hv hw
  by_contra hne
  exact hdisjoint.forall (mem_ringValues v) (mem_ringValues w) hne
    (hasGlyph_iff_mem_glyphsOf.1 hv) (hasGlyph_iff_mem_glyphsOf.1 hw)

/-! ### What `classify` answers -/

/-- `classify` answers a value the word is a glyph of, or, when there is none, the non-member `{0, 0}`. -/
theorem classify_cases (g : GlyphTable) (ch : CharWord) :
    (∃ v, g.hasGlyph v ch = true ∧ classify g ch = ⟨true, v⟩) ∨
    ((∀ v, g.hasGlyph v ch = false) ∧ classify g ch = ⟨false, 0⟩) := by
  unfold classify
  split
  next v hfind => exact .inl ⟨v, List.find?_some (p := fun v => g.hasGlyph v ch) hfind, rfl⟩
  next hfind => exact .inr ⟨fun v => by simpa using List.find?_eq_none.1 hfind v (mem_ringValues v), rfl⟩

theorem classify_of_nonmember {g : GlyphTable} {ch : CharWord} (h : ∀ v, g.hasGlyph v ch = false) :
    classify g ch = ⟨false, 0⟩ := by
  obtain ⟨v, hv, -⟩ | ⟨-, hc⟩ := classify_cases g ch
  · simp [h v] at hv
  · exact hc

theorem hasGlyph_of_classify {g : GlyphTable} {ch : CharWord} {v : RingVal} (h : classify g ch = ⟨true, v⟩) :
    g.hasGlyph v ch = true := by
  obtain ⟨w, hw, hc⟩ | ⟨-, hc⟩ := classify_cases g ch <;> rw [hc] at h
  · cases h
    exact hw
  · cases h

/-- The constraint of R8 is used here: the value `classify` finds is the only one `ch` is a glyph of. -/
theorem classify_of_hasGlyph {g : GlyphTable} (hg : g.Valid) {ch : CharWord} {v : RingVal}
    (h : g.hasGlyph v ch = true) : classify g ch = ⟨true, v⟩ := by
  obtain ⟨w, hw, hc⟩ | ⟨hnone, -⟩ := classify_cases g ch
  · rw [hc, hg w v ch hw h]
  · simp [hnone v] at h

theorem classify_eq_member_iff {g : GlyphTable} (hg : g.Valid) (ch : CharWord) (v : RingVal) :
    classify g ch = ⟨true, v⟩ ↔ g.hasGlyph v ch = true :=
  ⟨hasGlyph_of_classify, classify_of_hasGlyph hg⟩

theorem classify_upAt {g : GlyphTable} (hg : g.Valid) (v : RingVal) : classify g (g.upAt v) = ⟨true, v⟩ :=
  classify_of_hasGlyph hg (hasGlyph_upAt g v)

/-- Settles O30. -/
theorem classifyFollowsAnyValidGlyphTable : Obligations.ClassifyFollowsAnyValidGlyphTable := fun _ hg =>
  ⟨classify_eq_member_iff hg, fun _ => classify_of_nonmember, classify_upAt hg⟩

/-! ### The default table -/

/-- No character word appears twice in the default table of R9. -/
theorem defaultGlyphs_nodup : (ringValues.flatMap (glyphsOf defaultGlyphs)).Nodup := by decide

theorem defaultGlyphs_valid : defaultGlyphs.Valid := valid_of_nodup defaultGlyphs_nodup

/-- Settles O31: the default table by `valid_of_nodup`, the five fixed glyphs by `upAt_of_fixed`. -/
theorem defaultGlyphTableIsValid : Obligations.DefaultGlyphTableIsValid :=
  ⟨rfl, defaultGlyphs_valid, by decide, fun g =>
    ⟨upAt_of_fixed g (by decide), upAt_of_fixed g (by decide), upAt_of_fixed g (by decide),
      upAt_of_fixed g (by decide), upAt_of_fixed g (by decide)⟩⟩

end Sys2Proof.Machine
end

section
/-! PROOFS. What KABUILD, TBUILD and the table shift build is a permutation of the ring (42_keyed_alphabet_mono.md R160,
43_poly.md R181, R183). -/

namespace Sys2Proof.Machine

theorem tableOf_isPermutation {l : List RingVal} (h : l.Perm ringValues) : IsPermutation (tableOf l) := by
  rwa [IsPermutation, tableOf_toList (h.length_eq.trans ringValues_length)]

/-! ### The built tables -/

theorem keepMember_nodup {out : List RingVal} (e : KeyEntry) (h : out.Nodup) : (keepMember out e).Nodup := by
  unfold keepMember
  split
  · exact appendNew_nodup e.v h
  · exact h

theorem kabuild_perm (K : List KeyEntry) : (kabuild K).Perm ringValues :=
  fillInRingOrder_perm (List.foldlRecOn K keepMember List.nodup_nil fun _ h e _ => keepMember_nodup e h)

/-- The probe leaves the values taken (`probe_spec`), so the placed value is new. -/
theorem placeSymbol_nodup {out : List RingVal} (e : KeyEntry) (h : out.Nodup) : (placeSymbol out e).Nodup := by
  unfold placeSymbol
  split
  next hlen =>
    have hnew : probe out e.v ∉ out := (probe_spec hlen e.v).1
    simpa only [List.concat_eq_append] using h.concat hnew
  next => exact h

theorem tbuild_perm (K : List KeyEntry) : (tbuild K).Perm ringValues :=
  fillInRingOrder_perm (List.foldlRecOn K placeSymbol List.nodup_nil fun _ h e _ => placeSymbol_nodup e h)

/-! ### The table shift -/

/-- Moving one entry to the front permutes the table (R183). -/
theorem moveToFront_isPermutation {T : Table} (h : IsPermutation T) (p : Nat) : IsPermutation (moveToFront T p) := by
  refine tableOf_isPermutation (List.Perm.trans ?_ h)
  have hsplit : T.toList = T.toList.take p ++ ((T.toList.drop p).take 1 ++ T.toList.drop (p + 1)) := by
    rw [← List.drop_drop, List.take_append_drop, List.take_append_drop]
  calc ((T.toList.drop p).take 1 ++ T.toList.take p ++ T.toList.drop (p + 1)).Perm
        (T.toList.take p ++ (T.toList.drop p).take 1 ++ T.toList.drop (p + 1)) :=
        List.perm_append_comm.append_right _
    _ = T.toList := by rw [List.append_assoc, ← hsplit]

/-- In a permutation the first entry of the tail is absent from the head, so there is a fallback pivot (R183). -/
theorem fallbackPivot_ne_none {T : Table} (h : IsPermutation T) (bias : RingVal) : fallbackPivot T bias ≠ none := by
  intro hnone
  have hall := List.findIdx?_eq_none_iff.1 (Option.map_eq_none_iff.1 hnone)
  have hlen : 0 < (tableTail T bias).length := by
    have := bias.isLt
    simp [tableTail]
    omega
  have htail : (tableTail T bias)[0] ∈ tableTail T bias := List.getElem_mem hlen
  have hhead : (tableTail T bias)[0] ∈ tableHead T bias := by simpa using hall _ htail
  have hnodup : (tableHead T bias ++ tableTail T bias).Nodup := by
    rw [tableHead, tableTail, List.take_append_drop]
    exact IsPermutation_nodup h
  exact (List.nodup_append.1 hnodup).2.2 _ hhead _ htail rfl

/-- On a permutation the table shift is never the rule's `fatal` (R183, R37(f)). -/
theorem shiftTable_ne_none {T : Table} (h : IsPermutation T) (t : KeyEntry) (bias : RingVal) :
    shiftTable T t bias ≠ none := by
  rw [shiftTable, ne_eq, Option.map_eq_none_iff, pivotPosition]
  split
  · simp
  · exact fallbackPivot_ne_none h bias

theorem shiftTable_isPermutation {T T' : Table} {t : KeyEntry} {bias : RingVal} {p : Nat} (h : IsPermutation T)
    (hs : shiftTable T t bias = some (T', p)) : IsPermutation T' := by
  obtain ⟨q, -, hq⟩ := Option.map_eq_some_iff.1 hs
  exact (Prod.mk.inj hq).1 ▸ moveToFront_isPermutation h q

theorem indexOf_ne_none {T : Table} (h : IsPermutation T) (v : RingVal) : indexOf T v ≠ none := by
  obtain ⟨j, hj, -⟩ := indexOf_of_perm h v
  simp [hj]

end Sys2Proof.Machine
end

section
/-! PROOFS. How a command ends: the fault state's answer, an error, or a response, said once for every command. -/

namespace Sys2Proof.Machine

/-- The ways a command can end in the state `s` (30_encoding.md R102, 60_exceptions.md R282 to R289): refused by the
fault state, with an error of the list `E`, or with a response given from a state that satisfies `Q`. -/
inductive Ends (E : List Err) (Q : State → Prop) (s : State) : Result → Prop
  | faulted (hf : s.flt = true) : Ends E Q s (.next (answer 15 0 s))
  | raised {e : Err} (he : e ∈ E) (hne : e ≠ .fatal) (hf : s.flt = false) :
      Ends E Q s (.next (answer (errCode e) 0 (recordError e s)))
  | fatal (he : .fatal ∈ E) (hf : s.flt = false) :
      Ends E Q s (.next (answer 15 0 (recordError .fatal (enterFaultState s))))
  | responded (r : CharWord) {u : State} (hu : Q u) : Ends E Q s (.next (answer 0 r u))

/-! ### The shared operations -/

/-- Every branch of the cipher is an error or a response (42_keyed_alphabet_mono.md R163, R164). -/
theorem monoCipher_answers (move : RingVal → RingVal → RingVal) (ch : CharWord) (s : State) :
    ∃ t, monoCipher move ch s = .next t := by
  unfold monoCipher
  repeat' split
  all_goals exact ⟨_, rfl⟩

/-- Every branch of the cipher's step is an error or a response (43_poly.md R186, R187). -/
theorem polyCipher_answers (move : RingVal → RingVal → RingVal) (ch : CharWord) (s : State) :
    ∃ t, polyCipher move ch s = .next t := by
  unfold polyCipher
  repeat' split
  all_goals exact ⟨_, rfl⟩

section
variable {E : List Err} {Q : State → Prop} {s : State}

theorem ends_unlessFaulted {k : Result} (h : s.flt = false → Ends E Q s k) : Ends E Q s (unlessFaulted s k) := by
  cases hf : s.flt with
  | true => rw [unlessFaulted_of_faulted hf]; exact .faulted hf
  | false => rw [unlessFaulted_of_ok hf]; exact h hf

theorem ends_ite {c : Prop} [Decidable c] {k l : Result} (hk : c → Ends E Q s k) (hl : ¬ c → Ends E Q s l) :
    Ends E Q s (if c then k else l) := by
  split
  next h => exact hk h
  next h => exact hl h

theorem ends_monoCipher {move : RingVal → RingVal → RingVal} {ch : CharWord} (hf : s.flt = false) (hnoka : .noka ∈ E)
    (hfatal : s.kav = true → ∀ v, indexOf s.ka v = none → .fatal ∈ E) (hQ : Q s) :
    Ends E Q s (monoCipher move ch s) := by
  have ⟨t, ht⟩ := monoCipher_answers move ch s
  rw [ht]
  obtain ⟨-, rfl⟩ | ⟨-, -, rfl⟩ | ⟨-, -, -, rfl⟩ | ⟨-, hkav, -, hnone, rfl⟩ | ⟨j, -, -, -, -, rfl⟩ := monoCipher_cases ht
  · exact .responded _ hQ
  · exact .raised hnoka (by decide) hf
  · exact .responded _ hQ
  · exact .fatal (hfatal hkav _ hnone) hf
  · exact .responded _ hQ

theorem ends_polyCipher {move : RingVal → RingVal → RingVal} {ch : CharWord} (hf : s.flt = false) (hnott : .nott ∈ E)
    (hfatal : s.ttv = true → ∀ v t, indexOf s.tt v = none ∨ shiftTable s.tt t s.bias = none → .fatal ∈ E) (hQ : Q s)
    (hadvance : s.klen ≠ 0 → s.ttv = true → Q (advance s))
    (hshift : s.klen ≠ 0 → s.ttv = true → ∀ T p, shiftTable s.tt (entry s.key s.kidx) s.bias = some (T, p) →
      Q (advance { s with tt := T })) :
    Ends E Q s (polyCipher move ch s) := by
  have ⟨t, ht⟩ := polyCipher_answers move ch s
  rw [ht]
  obtain ⟨-, rfl⟩ | ⟨-, -, rfl⟩ | ⟨hk, hv, -, rfl⟩ | ⟨-, hv, -, hnone, rfl⟩ | ⟨pos, T, p, hk, hv, -, -, hT, rfl⟩ :=
    polyCipher_cases ht
  · exact .responded _ hQ
  · exact .raised hnott (by decide) hf
  · exact .responded _ (hadvance hk hv)
  · exact .fatal (hfatal hv _ _ hnone) hf
  · exact .responded _ (hshift hk hv T p hT)

theorem ends_transformBlock {f : RingVal → RingVal → RingVal} (hf : s.flt = false) (hblk : .blklen ∈ E)
    (hQ : Q { s with blk := mapBlock s.glyphs f s.blk }) : Ends E Q s (transformBlock f s) :=
  ends_ite (fun _ => .responded _ hQ) fun _ => .raised hblk (by decide) hf

theorem ends_keyedTransform {f : RingVal → RingVal → RingVal} (hf : s.flt = false) (hkey : .keylen ∈ E)
    (hblk : .blklen ∈ E) (hQ : Q { s with blk := mapBlock s.glyphs f s.blk }) : Ends E Q s (keyedTransform f s) :=
  ends_ite (fun _ => ends_transformBlock hf hblk hQ) fun _ => .raised hkey (by decide) hf

theorem ends_rejectIllegal (hillop : .illop ∈ E) : Ends E Q s (rejectIllegal s) :=
  ends_unlessFaulted fun hf => .raised hillop (by decide) hf

end

/-! ### The frame of a command -/

theorem SameElem.refl (e : Elem) (s : State) : SameElem e s s := by cases e <;> rfl

/-- What a successful command leaves as it was (10_state.md R40, R33; 60_exceptions.md R287, 45_system.md R243). The
proofs the fields carry serve an update of the state that is written out: they compare it with `s` field by field. -/
structure Frame (i : Instr) (s u : State) : Prop where
  elems : ∀ e : Elem, e ∉ writes i → SameElem e s u := by
    intro e he
    cases e <;> simp_all [writes, SameElem]
  flt : u.flt = s.flt := by rfl
  errors : (u.estk = s.estk ∧ u.elast = s.elast) ∨ (i = .clre ∧ s.flt = false ∧ u.estk = false ∧ u.elast = 0) := by
    exact .inl ⟨rfl, rfl⟩
  inputs : u.inputs = s.inputs := by rfl
  responses : u.responses = s.responses := by rfl
  awaitingReset : u.awaitingReset = s.awaitingReset := by rfl
  draws : u.draws = s.draws := by rfl
  glyphs : u.glyphs = s.glyphs := by rfl

theorem Frame.refl (i : Instr) (s : State) : Frame i s s where
  elems e _ := SameElem.refl e s

/-- Every command but SRESET ends with the fault state's answer, an error of its own row of 60_exceptions.md R282, or
a success that keeps its frame. -/
theorem exec_ends {i : Instr} (hi : i ≠ .sreset) (s : State) : Ends (ownErrors i) (Frame i s) s (exec i s) := by
  cases i with
  | sreset => exact absurd rfl hi
  | rdcr n => exact .responded _ (.refl _ s)
  | nop | getc | getv | isv | add | sub | sbx | sbxi => exact ends_unlessFaulted fun _ => .responded _ (.refl _ s)
  | clre => exact ends_unlessFaulted fun hf => .responded _ { errors := .inr ⟨rfl, hf, rfl, rfl⟩ }
  | kclr | setsh | kabuild | bclr => exact ends_unlessFaulted fun _ => .responded _ {}
  | kpush =>
    exact ends_unlessFaulted fun hf =>
      ends_ite (fun _ => .raised (by simp [ownErrors]) (by decide) hf) fun _ => .responded _ {}
  | kard | trd =>
    exact ends_unlessFaulted fun hf =>
      ends_ite (fun _ => .responded _ (.refl _ s)) fun _ => .raised (by simp [ownErrors]) (by decide) hf
  | menc | mdec =>
    exact ends_unlessFaulted fun hf =>
      ends_monoCipher hf (by simp [ownErrors]) (fun _ _ _ => by simp [ownErrors]) (.refl _ s)
  | tbuild =>
    exact ends_unlessFaulted fun hf =>
      ends_ite (fun _ => .raised (by simp [ownErrors]) (by decide) hf) fun _ => .responded _ {}
  | tshift target bias =>
    refine ends_unlessFaulted fun hf => ends_ite (fun _ => .raised (by simp [ownErrors]) (by decide) hf) fun _ => ?_
    split
    next => exact .fatal (by simp [ownErrors]) hf
    next => exact .responded _ {}
  | penc | pdec =>
    exact ends_unlessFaulted fun hf =>
      ends_polyCipher hf (by simp [ownErrors]) (fun _ _ _ _ => by simp [ownErrors]) (.refl _ s)
        (fun _ _ => {}) (fun _ _ _ _ _ => {})
  | bpush | bpop =>
    exact ends_unlessFaulted fun hf =>
      ends_ite (fun _ => .raised (by simp [ownErrors]) (by decide) hf) fun _ => .responded _ {}
  | sbapp | sbinv => exact ends_unlessFaulted fun hf => ends_transformBlock hf (by simp [ownErrors]) {}
  | sbkapp | sbkinv =>
    exact ends_unlessFaulted fun hf => ends_keyedTransform hf (by simp [ownErrors]) (by simp [ownErrors]) {}

/-! ### What a command writes (10_state.md R40) -/

@[simp] theorem sameElem_answer {e : Elem} {c : BitVec 4} {r : CharWord} {s u : State} :
    SameElem e s (answer c r u) ↔ SameElem e s u := by
  cases e <;> rfl

@[simp] theorem sameElem_recordError {e : Elem} {err : Err} {s u : State} :
    SameElem e s (recordError err u) ↔ SameElem e s u := by
  cases e <;> rfl

@[simp] theorem sameElem_enterFaultState {e : Elem} {s u : State} :
    SameElem e s (enterFaultState u) ↔ SameElem e s u := by
  cases e <;> rfl

theorem mem_writes_sreset (e : Elem) : e ∈ writes .sreset := by cases e <;> simp [writes]

/-- Settles O20, by `exec_ends`: an error writes no element, a success keeps the frame; SRESET writes every element. -/
theorem writeMatrixHolds : Obligations.WriteMatrixHolds := by
  intro i s t h
  by_cases hi : i = .sreset
  · subst hi
    obtain rfl := respond_eq_next.1 h
    exact ⟨fun e he => absurd (mem_writes_sreset e) he, rfl, rfl, fun hne => absurd rfl hne, _, rfl⟩
  · have hends := h ▸ exec_ends hi s
    cases hends with
    | faulted | raised | fatal =>
      exact ⟨fun e _ => by simpa using SameElem.refl e s, rfl, rfl, fun _ => ⟨rfl, rfl⟩, _, rfl⟩
    | responded r hu =>
      exact ⟨fun e he => sameElem_answer.2 (hu.elems e he), hu.inputs, hu.glyphs,
        fun _ => ⟨hu.awaitingReset, hu.draws⟩, ⟨0, r⟩, by simp [hu.responses]⟩

end Sys2Proof.Machine
end

section
/-! PROOFS. The reset state (10_state.md R36, 70_reset_and_hazards.md R320, R321). -/

namespace Sys2Proof.Machine

theorem resetFor_hasResetValues (g : GlyphTable) : HasResetValues (State.resetFor g) :=
  ⟨rfl, rfl, rfl, rfl, rfl, rfl, rfl, rfl, rfl, rfl⟩

theorem resetEngine_hasResetValues (s : State) : HasResetValues (resetEngine s) :=
  ⟨rfl, rfl, rfl, rfl, rfl, rfl, rfl, rfl, rfl, rfl⟩

theorem exec_sreset (s : State) : exec .sreset s = .next (answer 0 0 (resetEngine s)) := rfl

/-- The control registers are views of the scalars (R34), so the reset values give them. -/
theorem controlRegister_of_resetValues {s : State} (h : HasResetValues s) :
    controlRegister 0 s = 0x0000 ∧ controlRegister 1 s = 0x0800 ∧ controlRegister 2 s = 0x0000 := by
  simp [controlRegister, cr0, cr1, cr2, h.klen, h.shift, h.kav, h.ttv, h.kidx, h.bias, h.bcnt, h.flt, h.estk, h.elast]

/-- Settles O8. -/
theorem rstAndSresetGiveTheSameState : Obligations.RstAndSresetGiveTheSameState := fun s rest hi =>
  ⟨resetEngine { s with inputs := rest }, step_rst hi, resetEngine_hasResetValues _, rfl, rfl, rfl, exec_sreset _⟩

/-- Settles O10. -/
theorem resetStateAsTheSpecSays : Obligations.ResetStateAsTheSpecSays := by
  refine ⟨fun g => ?_, rfl⟩
  have hvalues := resetFor_hasResetValues g
  obtain ⟨h0, h1, h2⟩ := controlRegister_of_resetValues hvalues
  exact ⟨hvalues, h0, h1, h2, rfl, rfl⟩

/-- With no key loaded and no table valid, R37 asks nothing of the arrays. -/
theorem HasResetValues.engineInv {s : State} (h : HasResetValues s) : EngineInv s where
  klen_le := by simp [h.klen]
  bcnt_le := by simp [h.bcnt]
  ka_perm hv := by simp [h.kav] at hv
  tt_perm hv := by simp [h.ttv] at hv
  key_members hv := by simp [h.ttv] at hv
  kidx_lt hv := by simp [h.ttv] at hv
  key_sentinel := by simp [loadedKey, h.klen]
  not_faulted := h.flt

theorem HasResetValues.errorFlagsLegal {s : State} (h : HasResetValues s) : ErrorFlagsLegal s where
  code := .inl ⟨h.estk, h.elast⟩
  fault hf := by simp [h.flt] at hf

/-- Settles O11. -/
theorem resetSatisfiesTheInvariants : Obligations.ResetSatisfiesTheInvariants := by
  have hboth (g : GlyphTable) : Inv (State.resetFor g) ∧ ErrorFlagsLegal (State.resetFor g) :=
    ⟨fun _ => (resetFor_hasResetValues g).engineInv, (resetFor_hasResetValues g).errorFlagsLegal⟩
  exact ⟨hboth, (hboth defaultGlyphs).1, (hboth defaultGlyphs).2⟩

end Sys2Proof.Machine
end

section
/-! PROOFS. What every step keeps (10_state.md R32, R33, R37). -/

namespace Sys2Proof.Machine

/-! ### A step, case by case -/

/-- Everything a step that is not refused can be (30_encoding.md R90, 70_reset_and_hazards.md R320). -/
theorem step_cases {s t : State} (h : step s = .next t) :
    (s.inputs = [] ∧ t = s) ∨
    (∃ rest, s.inputs = .rst :: rest ∧ t = resetEngine { s with inputs := rest }) ∨
    (∃ rest, s.inputs = .powerOn :: rest ∧ t = applyPower { s with inputs := rest }) ∨
    (∃ w rest, s.inputs = .command w :: rest ∧ s.awaitingReset = true ∧ decode w = some .sreset ∧
      t = answer 0 0 (resetEngine { s with inputs := rest })) ∨
    ∃ w rest, s.inputs = .command w :: rest ∧ s.awaitingReset = false ∧
      acceptCommand w { s with inputs := rest } = .next t := by
  match hi : s.inputs with
  | [] => exact .inl ⟨rfl, (Host.Outcome.next.inj (step_idle hi ▸ h)).symm⟩
  | .rst :: rest => exact .inr (.inl ⟨rest, rfl, (Host.Outcome.next.inj (step_rst hi ▸ h)).symm⟩)
  | .powerOn :: rest => exact .inr (.inr (.inl ⟨rest, rfl, (Host.Outcome.next.inj (step_powerOn hi ▸ h)).symm⟩))
  | .command w :: rest =>
    refine .inr (.inr (.inr ?_))
    obtain ha | ha := Bool.eq_false_or_eq_true s.awaitingReset
    · by_cases hw : decode w = some .sreset
      · exact .inl ⟨w, rest, rfl, ha, hw, (Host.Outcome.next.inj (step_first_sreset hi hw ▸ h)).symm⟩
      · simp [step_before_reset hi ha hw] at h
    · exact .inr ⟨w, rest, rfl, ha, (step_command hi ha).symm.trans h⟩

/-- An accepted word runs its command, or is illegal (30_encoding.md R96, R102). -/
theorem acceptCommand_cases (w : CmdWord) (s : State) :
    (∃ i, acceptCommand w s = exec i s) ∨ acceptCommand w s = rejectIllegal s := by
  unfold acceptCommand
  split
  next i _ => exact .inl ⟨i, rfl⟩
  next => exact .inr rfl

/-- The induction step of a claim about engines that have been reset: it holds after every reset, and every accepted
word keeps it. -/
theorem step_keeps {P : State → Prop} (hreset : ∀ s, P (resetEngine s))
    (hanswer : ∀ e r s, P s → P (answer e r s)) (hinputs : ∀ s rest, P s → P { s with inputs := rest })
    (hcommand : ∀ w s t, P s → acceptCommand w s = .next t → P t) {s t : State}
    (hs : s.awaitingReset = false → P s) (h : step s = .next t) (ht : t.awaitingReset = false) : P t := by
  obtain ⟨-, rfl⟩ | ⟨rest, -, rfl⟩ | ⟨rest, -, rfl⟩ | ⟨w, rest, -, -, -, rfl⟩ | ⟨w, rest, -, ha, hw⟩ := step_cases h
  · exact hs ht
  · exact hreset _
  · simp at ht
  · exact hanswer _ _ _ (hreset _)
  · exact hcommand w _ t (hinputs s rest (hs ha)) hw

/-! ### The glyph table -/

theorem acceptCommand_glyphs {w : CmdWord} {s t : State} (h : acceptCommand w s = .next t) : t.glyphs = s.glyphs := by
  obtain ⟨i, hw⟩ | hw := acceptCommand_cases w s <;> rw [hw] at h
  · obtain ⟨-, -, hglyphs, -⟩ := writeMatrixHolds i s t h
    exact hglyphs
  · rw [rejectIllegal_eq] at h
    cases h
    split <;> rfl

theorem step_glyphs {s t : State} (h : step s = .next t) : t.glyphs = s.glyphs := by
  obtain ⟨-, rfl⟩ | ⟨rest, -, rfl⟩ | ⟨rest, -, rfl⟩ | ⟨w, rest, -, -, -, rfl⟩ | ⟨w, rest, -, -, hw⟩ := step_cases h
  · rfl
  · rfl
  · rfl
  · rfl
  · exact acceptCommand_glyphs (s := { s with inputs := rest }) hw

/-! ### The error registers -/

theorem errCode_mem_producedCodes (e : Err) : errCode e ∈ producedCodes := by cases e <;> decide

/-- However a command ends, the error registers stay legal where a success keeps them so (60_exceptions.md R281). -/
theorem Ends.errorFlagsLegal {E : List Err} {Q : State → Prop} {s t : State} (h : Ends E Q s (.next t))
    (hs : ErrorFlagsLegal s) (hQ : ∀ u, Q u → ErrorFlagsLegal u) : ErrorFlagsLegal t := by
  cases h with
  | faulted => exact { hs with }
  | raised _ _ hf => exact ⟨.inr ⟨rfl, errCode_mem_producedCodes _⟩, fun hfault => by simp [hf] at hfault⟩
  | fatal => exact ⟨.inr ⟨rfl, errCode_mem_producedCodes .fatal⟩, fun _ => ⟨rfl, rfl⟩⟩
  | responded r hu => exact { hQ _ hu with }

theorem Frame.errorFlagsLegal {i : Instr} {s u : State} (h : Frame i s u) (hs : ErrorFlagsLegal s) :
    ErrorFlagsLegal u := by
  obtain ⟨hestk, helast⟩ | ⟨-, hf, hestk, helast⟩ := h.errors
  · exact ⟨by simpa only [hestk, helast] using hs.code, by simpa only [h.flt, hestk, helast] using hs.fault⟩
  · exact ⟨.inl ⟨hestk, helast⟩, fun hfault => by simp [h.flt, hf] at hfault⟩

theorem acceptCommand_errorFlagsLegal {w : CmdWord} {s t : State} (hs : ErrorFlagsLegal s)
    (h : acceptCommand w s = .next t) : ErrorFlagsLegal t := by
  obtain ⟨i, hw⟩ | hw := acceptCommand_cases w s <;> rw [hw] at h
  · by_cases hi : i = .sreset
    · subst hi
      obtain rfl := respond_eq_next.1 h
      exact { (resetEngine_hasResetValues s).errorFlagsLegal with }
    · exact (h ▸ exec_ends hi s).errorFlagsLegal hs fun u hu => hu.errorFlagsLegal hs
  · exact (h ▸ ends_rejectIllegal (E := [.illop]) (Q := ErrorFlagsLegal) (by decide)).errorFlagsLegal hs fun _ => id

/-- Settles O14. -/
theorem stepKeepsErrorFlagsLegal : Obligations.StepKeepsErrorFlagsLegal := fun _ _ hs h =>
  step_keeps (fun s => (resetEngine_hasResetValues s).errorFlagsLegal) (fun _ _ _ hu => { hu with })
    (fun _ _ hu => { hu with }) (fun _ _ _ => acceptCommand_errorFlagsLegal) hs h

end Sys2Proof.Machine
end

section
/-! PROOFS. The invariants of 10_state.md R37, under which no command is fatal. -/

namespace Sys2Proof.Machine

/-! ### What keeps the invariants -/

theorem EngineInv.answer {s : State} (h : EngineInv s) (e : BitVec 4) (r : CharWord) : EngineInv (answer e r s) :=
  { h with }

theorem EngineInv.recordError {s : State} (h : EngineInv s) (e : Err) : EngineInv (recordError e s) := { h with }

/-- With both tables stale only the key's length and its sentinels count. -/
theorem engineInv_invalidateTables {u : State} (hklen : u.klen.toNat ≤ 32) (hbcnt : u.bcnt.toNat ≤ 4)
    (hkey : ∀ e ∈ loadedKey u, e.m = false → e.v = 0) (hf : u.flt = false) : EngineInv (invalidateTables u) where
  klen_le := hklen
  bcnt_le := hbcnt
  ka_perm hv := by simp at hv
  tt_perm hv := by simp at hv
  key_members hv := by simp at hv
  kidx_lt hv := by simp at hv
  key_sentinel := hkey
  not_faulted := hf

/-- A non-member is classified as the sentinel (00_scope.md R14). -/
theorem classify_sentinel {g : GlyphTable} {ch : CharWord} (h : (classify g ch).m = false) : (classify g ch).v = 0 := by
  obtain ⟨v, -, hc⟩ | ⟨-, hc⟩ := classify_cases g ch
  · simp [hc] at h
  · rw [hc]

theorem keyFull_eq_false {s : State} : keyFull s = false ↔ s.klen.toNat < 32 :=
  decide_eq_false_iff_not.trans Nat.not_le

theorem blockFull_eq_false {s : State} : blockFull s = false ↔ s.bcnt.toNat < 4 :=
  decide_eq_false_iff_not.trans Nat.not_le

/-- KPUSH keeps the invariants (41_key.md R141). -/
theorem EngineInv.pushKey {s : State} (h : EngineInv s) (ch : CharWord) (hroom : s.klen.toNat < 32) :
    EngineInv (invalidateTables (pushKey (classify s.glyphs ch) s)) := by
  have hlen : (s.klen + 1).toNat = s.klen.toNat + 1 := by bv_omega
  refine engineInv_invalidateTables (by rw [pushKey_klen]; omega) h.bcnt_le ?_ h.not_faulted
  rw [loadedKey_pushKey _ hroom]
  intro e he
  obtain he | he := List.mem_append.1 he
  · exact h.key_sentinel e he
  · obtain rfl := List.mem_singleton.1 he
    exact classify_sentinel

/-- KABUILD keeps the invariants: it installs a permutation (42_keyed_alphabet_mono.md R161). -/
theorem EngineInv.installAlphabet {s : State} (h : EngineInv s) {T : Table} (hT : IsPermutation T) :
    EngineInv { s with ka := T, kav := true } :=
  { h with ka_perm := fun _ => hT }

/-- TBUILD keeps the invariants: it installs a permutation, on a key of members only (43_poly.md R182). -/
theorem EngineInv.installTable {s : State} (h : EngineInv s) {T : Table} (hT : IsPermutation T)
    (hmembers : ∀ e ∈ loadedKey s, e.m = true) (bias : RingVal) :
    EngineInv { s with tt := T, kidx := 0, bias := bias, ttv := true } :=
  { h with
    tt_perm := fun _ => hT
    key_members := fun _ => hmembers
    kidx_lt := fun _ hk => hk }

/-- A permuted table keeps the invariants (43_poly.md R183, R185). -/
theorem EngineInv.setTable {s : State} (h : EngineInv s) {T : Table} (hT : IsPermutation T) :
    EngineInv { s with tt := T } :=
  { h with tt_perm := fun _ => hT }

/-- `advance()` keeps the key index below `KLEN` (43_poly.md R188). -/
theorem EngineInv.advance {s : State} (h : EngineInv s) : EngineInv (advance s) :=
  { h with
    kidx_lt := fun _ hk => by
      have hmod : (s.kidx.toNat + 1) % s.klen.toNat < s.klen.toNat := Nat.mod_lt _ hk
      have := h.klen_le
      simp only [advance_kidx, advance_klen, BitVec.toNat_ofNat]
      omega }

/-- BPUSH keeps the invariants (44_sblock.md R215). -/
theorem EngineInv.pushBlock {s : State} (h : EngineInv s) (ch : CharWord) (hroom : s.bcnt.toNat < 4) :
    EngineInv (pushBlock ch s) :=
  { h with
    bcnt_le := by
      rw [pushBlock_bcnt]
      bv_omega }

/-- BPOP keeps the invariants (44_sblock.md R216). -/
theorem EngineInv.popBlock {s : State} (h : EngineInv s) (hheld : s.bcnt ≠ 0) : EngineInv (popBlock s) :=
  { h with
    bcnt_le := by
      have := h.bcnt_le
      rw [popBlock_bcnt]
      bv_omega }

/-! ### No command is fatal -/

/-- The errors other than the fatal one (60_exceptions.md R281). -/
def ordinaryErrors : List Err := [.illop, .keylen, .blklen, .noka, .nott, .empty, .keyovf, .keysym]

/-- A state a command can answer from: the invariants hold, and no other response was given. -/
structure SafeFrom (s u : State) : Prop where
  inv : EngineInv u
  responses : u.responses = s.responses := by rfl

/-- Where the invariants hold, every command ends in a state in which they hold, and without the fatal error: the
tables that are looked up are permutations, so `indexOf` and the table shift find what they look for. -/
theorem exec_safe {s : State} (h : EngineInv s) (i : Instr) : Ends ordinaryErrors (SafeFrom s) s (exec i s) := by
  have hbcnt := h.bcnt_le
  cases i with
  | sreset => exact .responded _ { inv := (resetEngine_hasResetValues s).engineInv }
  | rdcr => exact .responded _ { inv := h }
  | nop | getc | getv | isv | add | sub | sbx | sbxi => exact ends_unlessFaulted fun _ => .responded _ { inv := h }
  | clre | setsh => exact ends_unlessFaulted fun _ => .responded _ { inv := { h with } }
  | kclr =>
    exact ends_unlessFaulted fun hf =>
      .responded _ { inv := engineInv_invalidateTables (Nat.zero_le _) hbcnt (by simp [loadedKey]) hf }
  | kpush ch =>
    exact ends_unlessFaulted fun hf => ends_ite (fun _ => .raised (by decide) (by decide) hf) fun hfull =>
      .responded _ { inv := h.pushKey ch (keyFull_eq_false.1 (by simpa using hfull)) }
  | kabuild =>
    exact ends_unlessFaulted fun _ =>
      .responded _ { inv := h.installAlphabet (tableOf_isPermutation (kabuild_perm _)) }
  | kard | trd =>
    exact ends_unlessFaulted fun hf =>
      ends_ite (fun _ => .responded _ { inv := h }) fun _ => .raised (by decide) (by decide) hf
  | menc | mdec =>
    exact ends_unlessFaulted fun hf =>
      ends_monoCipher hf (by decide) (fun hv v hnone => absurd hnone (indexOf_ne_none (h.ka_perm hv) v)) { inv := h }
  | tbuild =>
    exact ends_unlessFaulted fun hf =>
      ends_ite (fun _ => .raised (by decide) (by decide) hf) fun hmembers =>
        .responded _ { inv := h.installTable (tableOf_isPermutation (tbuild_perm _)) (by simpa using hmembers) _ }
  | tshift target bias =>
    refine ends_unlessFaulted fun hf => ends_ite (fun _ => .raised (by decide) (by decide) hf) fun hv => ?_
    have hperm : IsPermutation s.tt := h.tt_perm (by simpa using hv)
    split
    next hnone => exact absurd hnone (shiftTable_ne_none hperm _ _)
    next hsome => exact .responded _ { inv := h.setTable (shiftTable_isPermutation hperm hsome) }
  | penc | pdec =>
    exact ends_unlessFaulted fun hf =>
      ends_polyCipher hf (by decide)
        (fun hv v t hnone => hnone.elim (fun hi => absurd hi (indexOf_ne_none (h.tt_perm hv) v))
          fun hs => absurd hs (shiftTable_ne_none (h.tt_perm hv) t _))
        { inv := h } (fun _ _ => { inv := h.advance })
        fun _ hv T p hsome => { inv := (h.setTable (shiftTable_isPermutation (h.tt_perm hv) hsome)).advance }
  | bclr => exact ends_unlessFaulted fun _ => .responded _ { inv := { h with bcnt_le := Nat.zero_le _ } }
  | bpush ch =>
    exact ends_unlessFaulted fun hf => ends_ite (fun _ => .raised (by decide) (by decide) hf) fun hfull =>
      .responded _ { inv := h.pushBlock ch (blockFull_eq_false.1 (by simpa using hfull)) }
  | bpop =>
    exact ends_unlessFaulted fun hf => ends_ite (fun _ => .raised (by decide) (by decide) hf) fun hheld =>
      .responded _ { inv := h.popBlock hheld }
  | sbapp | sbinv => exact ends_unlessFaulted fun hf => ends_transformBlock hf (by decide) { inv := { h with } }
  | sbkapp | sbkinv =>
    exact ends_unlessFaulted fun hf => ends_keyedTransform hf (by decide) (by decide) { inv := { h with } }

theorem errCode_ne_fatal {e : Err} (h : e ≠ .fatal) : errCode e ≠ 15 := by
  cases e <;> simp_all [errCode]

/-- What ends a command where the invariants hold: one response, not the fatal error's, and the invariants again. -/
theorem Ends.safe {s : State} {k : Result} (hk : Ends ordinaryErrors (SafeFrom s) s k) (h : EngineInv s) :
    ∃ (t : State) (r : Response), k = .next t ∧ t.responses = s.responses ++ [r] ∧ r.e ≠ 15 ∧ EngineInv t := by
  cases hk with
  | faulted hf => simp [h.not_faulted] at hf
  | raised _ hne _ => exact ⟨_, _, rfl, rfl, errCode_ne_fatal hne, (h.recordError _).answer _ _⟩
  | fatal he _ => exact absurd he (by decide)
  | responded r hu => exact ⟨_, ⟨0, r⟩, rfl, by simp [hu.responses], by simp, hu.inv.answer _ _⟩

/-- Settles O13. -/
theorem fatalErrorIsUnreachable : Obligations.FatalErrorIsUnreachable := by
  intro i s h
  obtain ⟨t, r, hexec, hresp, hcode, hinv⟩ := (exec_safe h i).safe h
  exact ⟨t, r, hexec, hresp, hcode, hinv.not_faulted⟩

theorem acceptCommand_safe {w : CmdWord} {s : State} (h : EngineInv s) :
    Ends ordinaryErrors (SafeFrom s) s (acceptCommand w s) := by
  obtain ⟨i, hw⟩ | hw := acceptCommand_cases w s <;> rw [hw]
  · exact exec_safe h i
  · exact ends_rejectIllegal (by decide)

theorem acceptCommand_engineInv {w : CmdWord} {s t : State} (h : EngineInv s) (hw : acceptCommand w s = .next t) :
    EngineInv t := by
  obtain ⟨u, -, hu, -, -, hinv⟩ := (acceptCommand_safe (w := w) h).safe h
  obtain rfl : t = u := Host.Outcome.next.inj (hw.symm.trans hu)
  exact hinv

/-- Settles O12. -/
theorem stepKeepsTheInvariants : Obligations.StepKeepsTheInvariants :=
  ⟨fun _ _ hs h => step_keeps (fun s => (resetEngine_hasResetValues s).engineInv) (fun _ _ _ hu => hu.answer _ _)
    (fun _ _ hu => { hu with }) (fun _ _ _ => acceptCommand_engineInv) hs h, fun _ _ => step_glyphs⟩

end Sys2Proof.Machine
end

section
/-! PROOFS. Two runs of one command, side by side: what a response depends on (10_state.md R40, R36, R38). -/

namespace Sys2Proof.Machine

/-- The ways one command can end alike in two states `s` and `s'`: both refused by the fault state, both with the same
error, or both with the same response given from states that are related by `R`. -/
inductive EndAlike (R : State → State → Prop) (s s' : State) : Result → Result → Prop
  | faulted : EndAlike R s s' (.next (answer 15 0 s)) (.next (answer 15 0 s'))
  | raised (e : Err) :
      EndAlike R s s' (.next (answer (errCode e) 0 (recordError e s))) (.next (answer (errCode e) 0 (recordError e s')))
  | fatal : EndAlike R s s' (.next (answer 15 0 (recordError .fatal (enterFaultState s))))
      (.next (answer 15 0 (recordError .fatal (enterFaultState s'))))
  | responded {r r' : CharWord} {u u' : State} (hr : r = r') (hu : R u u') :
      EndAlike R s s' (.next (answer 0 r u)) (.next (answer 0 r' u'))

theorem EndAlike.lastResponse_eq {R : State → State → Prop} {s s' t t' : State}
    (h : EndAlike R s s' (.next t) (.next t')) : lastResponse t = lastResponse t' := by
  cases h with
  | faulted | raised | fatal => simp [lastResponse]
  | responded hr _ => simp [lastResponse, hr]

/-! ### The shared operations -/

section
variable {R : State → State → Prop} {s s' : State}

theorem endAlike_unlessFaulted (hf : s.flt = s'.flt) {k k' : Result} (h : EndAlike R s s' k k') :
    EndAlike R s s' (unlessFaulted s k) (unlessFaulted s' k') := by
  cases hflt : s.flt with
  | true => rw [unlessFaulted_of_faulted hflt, unlessFaulted_of_faulted (hf ▸ hflt)]; exact .faulted
  | false => rw [unlessFaulted_of_ok hflt, unlessFaulted_of_ok (hf ▸ hflt)]; exact h

theorem endAlike_ite {c c' : Prop} [Decidable c] [Decidable c'] (hc : c ↔ c') {k k' l l' : Result}
    (hk : c → EndAlike R s s' k k') (hl : ¬ c → EndAlike R s s' l l') :
    EndAlike R s s' (if c then k else l) (if c' then k' else l') := by
  by_cases h : c
  · rw [if_pos h, if_pos (hc.1 h)]; exact hk h
  · rw [if_neg h, if_neg (mt hc.2 h)]; exact hl h

theorem endAlike_monoCipher {move : RingVal → RingVal → RingVal} {ch : CharWord} (hglyphs : s.glyphs = s'.glyphs)
    (hklen : s.klen = s'.klen) (hshift : s.shift = s'.shift) (hkav : s.kav = s'.kav)
    (hka : s.kav = true → s.ka = s'.ka) (hR : R s s') :
    EndAlike R s s' (monoCipher move ch s) (monoCipher move ch s') := by
  unfold monoCipher
  refine endAlike_ite (by rw [hklen]) (fun _ => .responded rfl hR) fun _ =>
    endAlike_ite (by rw [hkav]) (fun _ => .raised .noka) fun hv =>
    endAlike_ite (by rw [hglyphs]) (fun _ => .responded rfl hR) fun _ => ?_
  have hka' : s.ka = s'.ka := hka (by simpa using hv)
  have hindex : indexOf s'.ka (val s'.glyphs ch) = indexOf s.ka (val s.glyphs ch) := by rw [hka', hglyphs]
  rw [hindex]
  cases indexOf s.ka (val s.glyphs ch) with
  | none => exact .fatal
  | some j => exact .responded (by rw [hka', hglyphs, hshift]) hR

theorem endAlike_polyCipher {move : RingVal → RingVal → RingVal} {ch : CharWord} (hglyphs : s.glyphs = s'.glyphs)
    (hklen : s.klen = s'.klen) (hshift : s.shift = s'.shift) (httv : s.ttv = s'.ttv) (hbias : s.bias = s'.bias)
    (htt : s.ttv = true → s.tt = s'.tt)
    (hkey : s.klen ≠ 0 → s.ttv = true → entry s.key s.kidx = entry s'.key s'.kidx) (hR : R s s')
    (hadvance : R (advance s) (advance s'))
    (hshiftTable : ∀ T : Table, R (advance { s with tt := T }) (advance { s' with tt := T })) :
    EndAlike R s s' (polyCipher move ch s) (polyCipher move ch s') := by
  unfold polyCipher
  refine endAlike_ite (by rw [hklen]) (fun _ => .responded rfl hR) fun hk =>
    endAlike_ite (by rw [httv]) (fun _ => .raised .nott) fun hv =>
    endAlike_ite (by rw [hglyphs]) (fun _ => .responded rfl hadvance) fun _ => ?_
  have hvalid : s.ttv = true := by simpa using hv
  have htt' : s.tt = s'.tt := htt hvalid
  have hindex : indexOf s'.tt (val s'.glyphs ch) = indexOf s.tt (val s.glyphs ch) := by rw [htt', hglyphs]
  have htable : shiftTable s'.tt (entry s'.key s'.kidx) s'.bias = shiftTable s.tt (entry s.key s.kidx) s.bias := by
    rw [htt', hkey hk hvalid, hbias]
  rw [hindex, htable]
  cases indexOf s.tt (val s.glyphs ch) with
  | none => exact .fatal
  | some pos =>
    cases shiftTable s.tt (entry s.key s.kidx) s.bias with
    | none => exact .fatal
    | some Tp => exact .responded (by rw [htt', hglyphs, hshift]) (hshiftTable Tp.1)

theorem endAlike_tshift {target : CharWord} {bias : RingVal} (hf : s.flt = s'.flt) (hglyphs : s.glyphs = s'.glyphs)
    (httv : s.ttv = s'.ttv) (htt : s.ttv = true → s.tt = s'.tt)
    (hR : ∀ T : Table, R { s with tt := T } { s' with tt := T }) :
    EndAlike R s s' (execTshift target bias s) (execTshift target bias s') := by
  refine endAlike_unlessFaulted hf (endAlike_ite (by rw [httv]) (fun _ => .raised .nott) fun hv => ?_)
  have htt' : s.tt = s'.tt := htt (by simpa using hv)
  have htable : shiftTable s'.tt (classify s'.glyphs target) bias =
      shiftTable s.tt (classify s.glyphs target) bias := by
    rw [htt', hglyphs]
  rw [htable]
  cases shiftTable s.tt (classify s.glyphs target) bias with
  | none => exact .fatal
  | some Tp => exact .responded (by rw [htt', hglyphs]) (hR Tp.1)

theorem endAlike_transformBlock {f f' : RingVal → RingVal → RingVal} (hbcnt : s.bcnt = s'.bcnt)
    (hR : s.bcnt.toNat = 4 →
      R { s with blk := mapBlock s.glyphs f s.blk } { s' with blk := mapBlock s'.glyphs f' s'.blk }) :
    EndAlike R s s' (transformBlock f s) (transformBlock f' s') :=
  endAlike_ite (by rw [blockReady, hbcnt, ← blockReady])
    (fun hready => .responded rfl (hR (of_decide_eq_true hready))) fun _ => .raised .blklen

theorem endAlike_keyedTransform {f f' : RingVal → RingVal → RingVal} (hklen : s.klen = s'.klen)
    (h : s.klen.toNat = 16 → EndAlike R s s' (transformBlock f s) (transformBlock f' s')) :
    EndAlike R s s' (keyedTransform f s) (keyedTransform f' s') :=
  endAlike_ite (by rw [sbKeyReady, hklen, ← sbKeyReady]) (fun hready => h (of_decide_eq_true hready))
    fun _ => .raised .keylen

/-- The control registers are views of the ten scalars (R34). -/
theorem controlRegister_congr (n : BitVec 2) (hklen : s.klen = s'.klen) (hshift : s.shift = s'.shift)
    (hkav : s.kav = s'.kav) (httv : s.ttv = s'.ttv) (hkidx : s.kidx = s'.kidx) (hbias : s.bias = s'.bias)
    (hbcnt : s.bcnt = s'.bcnt) (hflt : s.flt = s'.flt) (hestk : s.estk = s'.estk) (helast : s.elast = s'.elast) :
    controlRegister n s = controlRegister n s' := by
  simp only [controlRegister, cr0, cr1, cr2, hklen, hshift, hkav, httv, hkidx, hbias, hbcnt, hflt, hestk, helast]

end

/-! ### What a response reads (10_state.md R40) -/

/-- The states a command leaves may differ in anything: only the responses are compared. -/
def anyStates (_ _ : State) : Prop := True

/-- States that agree in what a command's row marks as read make it end alike. -/
theorem exec_endAlike_of_reads {i : Instr} {s s' : State} (hreads : ∀ e ∈ reads i, SameElem e s s')
    (hflt : s.flt = s'.flt) (hglyphs : s.glyphs = s'.glyphs)
    (herrors : (∃ n, i = .rdcr n) → s.estk = s'.estk ∧ s.elast = s'.elast) :
    EndAlike anyStates s s' (exec i s) (exec i s') := by
  cases i with
  | nop | kclr | setsh | kabuild | bclr | clre | sbx | sbxi =>
    exact endAlike_unlessFaulted hflt (.responded rfl trivial)
  | sreset => exact .responded rfl trivial
  | rdcr n =>
    obtain ⟨hklen, hshift, hkav, httv, hkidx, hbias, hbcnt⟩ :
        s.klen = s'.klen ∧ s.shift = s'.shift ∧ s.kav = s'.kav ∧ s.ttv = s'.ttv ∧
          s.kidx = s'.kidx ∧ s.bias = s'.bias ∧ s.bcnt = s'.bcnt := by
      simpa [reads, SameElem] using hreads
    obtain ⟨hestk, helast⟩ := herrors ⟨n, rfl⟩
    exact .responded
      (controlRegister_congr n hklen hshift hkav httv hkidx hbias hbcnt hflt hestk helast) trivial
  | getc | getv | isv | add | sub => exact endAlike_unlessFaulted hflt (.responded (by rw [hglyphs]) trivial)
  | kpush =>
    have hklen : s.klen = s'.klen := by simpa [reads, SameElem] using hreads
    exact endAlike_unlessFaulted hflt
      (endAlike_ite (by rw [keyFull, hklen, ← keyFull]) (fun _ => .raised .keyovf) fun _ => .responded rfl trivial)
  | kard =>
    obtain ⟨hka, hkav⟩ : s.ka = s'.ka ∧ s.kav = s'.kav := by simpa [reads, SameElem] using hreads
    exact endAlike_unlessFaulted hflt
      (endAlike_ite (by rw [hkav]) (fun _ => .responded (by rw [hglyphs, hka]) trivial) fun _ => .raised .noka)
  | menc | mdec =>
    obtain ⟨hklen, hshift, hka, hkav⟩ :
        s.klen = s'.klen ∧ s.shift = s'.shift ∧ s.ka = s'.ka ∧ s.kav = s'.kav := by
      simpa [reads, SameElem] using hreads
    exact endAlike_unlessFaulted hflt (endAlike_monoCipher hglyphs hklen hshift hkav (fun _ => hka) trivial)
  | tbuild =>
    obtain ⟨hkey, hklen⟩ : s.key = s'.key ∧ s.klen = s'.klen := by simpa [reads, SameElem] using hreads
    exact endAlike_unlessFaulted hflt
      (endAlike_ite (by rw [loadedKey, hkey, hklen, ← loadedKey]) (fun _ => .raised .keysym)
        fun _ => .responded rfl trivial)
  | trd =>
    obtain ⟨htt, httv⟩ : s.tt = s'.tt ∧ s.ttv = s'.ttv := by simpa [reads, SameElem] using hreads
    exact endAlike_unlessFaulted hflt
      (endAlike_ite (by rw [httv]) (fun _ => .responded (by rw [hglyphs, htt]) trivial) fun _ => .raised .nott)
  | tshift =>
    obtain ⟨htt, httv⟩ : s.tt = s'.tt ∧ s.ttv = s'.ttv := by simpa [reads, SameElem] using hreads
    exact endAlike_tshift hflt hglyphs httv (fun _ => htt) fun _ => trivial
  | penc | pdec =>
    obtain ⟨hkey, hklen, hshift, htt, httv, hkidx, hbias⟩ :
        s.key = s'.key ∧ s.klen = s'.klen ∧ s.shift = s'.shift ∧ s.tt = s'.tt ∧ s.ttv = s'.ttv ∧
          s.kidx = s'.kidx ∧ s.bias = s'.bias := by
      simpa [reads, SameElem] using hreads
    exact endAlike_unlessFaulted hflt
      (endAlike_polyCipher hglyphs hklen hshift httv hbias (fun _ => htt) (fun _ _ => by rw [hkey, hkidx]) trivial
        trivial fun _ => trivial)
  | bpush =>
    have hbcnt : s.bcnt = s'.bcnt := by simpa [reads, SameElem] using hreads
    exact endAlike_unlessFaulted hflt
      (endAlike_ite (by rw [blockFull, hbcnt, ← blockFull]) (fun _ => .raised .blklen)
        fun _ => .responded rfl trivial)
  | bpop =>
    obtain ⟨hblk, hbcnt⟩ : s.blk = s'.blk ∧ s.bcnt = s'.bcnt := by simpa [reads, SameElem] using hreads
    exact endAlike_unlessFaulted hflt
      (endAlike_ite (by rw [hbcnt]) (fun _ => .raised .empty) fun _ => .responded (by rw [hblk]) trivial)
  | sbapp | sbinv =>
    obtain ⟨-, hbcnt⟩ : s.blk = s'.blk ∧ s.bcnt = s'.bcnt := by simpa [reads, SameElem] using hreads
    exact endAlike_unlessFaulted hflt (endAlike_transformBlock hbcnt fun _ => trivial)
  | sbkapp | sbkinv =>
    obtain ⟨-, hklen, -, hbcnt⟩ :
        s.key = s'.key ∧ s.klen = s'.klen ∧ s.blk = s'.blk ∧ s.bcnt = s'.bcnt := by
      simpa [reads, SameElem] using hreads
    exact endAlike_unlessFaulted hflt
      (endAlike_keyedTransform hklen fun _ => endAlike_transformBlock hbcnt fun _ => trivial)

/-- Settles O21. -/
theorem readMatrixHolds : Obligations.ReadMatrixHolds := by
  intro i s s' t t' r r' hreads hflt hglyphs herrors ht ht' hr hr'
  have halike := exec_endAlike_of_reads hreads hflt hglyphs herrors
  rw [ht, ht'] at halike
  simpa [lastResponse, hr, hr'] using halike.lastResponse_eq

end Sys2Proof.Machine
end

section
/-! PROOFS. Unspecified contents cannot be observed (10_state.md R36, R38; 93_implementation_defined.md U3). -/

namespace Sys2Proof.Machine

/-- Two engines that have been reset and are the same to the host. -/
structure Alike (s s' : State) : Prop extends SameContents s s' where
  glyphs : s.glyphs = s'.glyphs
  inputs : s.inputs = s'.inputs
  responses : s.responses = s'.responses
  awaiting : s.awaitingReset = s'.awaitingReset

theorem Alike.sameToHost {s s' : State} (h : Alike s s') : SameToHost s s' :=
  ⟨h.glyphs, h.inputs, h.responses, h.awaiting, fun _ => h.toSameContents⟩

theorem SameToHost.alike {s s' : State} (h : SameToHost s s') (ha : s.awaitingReset = false) : Alike s s' :=
  ⟨h.contents ha, h.glyphs, h.inputs, h.responses, h.awaiting⟩

/-! ### The meaningful entries of the arrays -/

section
variable {s s' : State}

/-- A key entry below `KLEN` is one of the loaded key (R28). -/
theorem loadedKey_getElem? {j : RingVal} (hj : j.toNat < s.klen.toNat) :
    (loadedKey s)[j.toNat]? = some (entry s.key j) := by
  simp [loadedKey, entry_eq_getElem, hj]

theorem SameContents.entry_key (h : SameContents s s') {j : RingVal} (hj : j.toNat < s.klen.toNat) :
    entry s.key j = entry s'.key j := by
  have hj' : j.toNat < s'.klen.toNat := h.klen ▸ hj
  exact Option.some.inj (by rw [← loadedKey_getElem? hj, ← loadedKey_getElem? hj', h.key])

/-- The keyed transforms read the loaded key only: the position is reduced modulo `KLEN` (44_sblock.md R219). -/
theorem SameContents.blockKeyValue (h : SameContents s s') (hk : 0 < s.klen.toNat) :
    blockKeyValue s = blockKeyValue s' := by
  funext i
  have hmod : i.toNat % s.klen.toNat < s.klen.toNat := Nat.mod_lt _ hk
  have hi := i.isLt
  have hle : i.toNat % s.klen.toNat ≤ i.toNat := Nat.mod_le _ _
  unfold Machine.blockKeyValue
  rw [h.entry_key (by rw [BitVec.toNat_ofNat]; omega), h.klen]

/-- A block entry below `BCNT` is held (R31). -/
theorem SameContents.blk_zero (h : SameContents s s') (hheld : s.bcnt ≠ 0) : s.blk[0] = s'.blk[0] := by
  have hpos : 0 < s.bcnt.toNat := by bv_omega
  have hpos' : 0 < s'.bcnt.toNat := h.bcnt ▸ hpos
  have h0 := congrArg (·[0]?) h.blk
  simpa [List.getElem?_take, hpos, hpos'] using h0

/-- In a full block every entry is held. -/
theorem SameContents.blk_of_full (h : SameContents s s') (hfull : s.bcnt.toNat = 4) : s.blk = s'.blk := by
  have htake := h.blk
  rw [← h.bcnt, hfull, List.take_of_length_le (by simp), List.take_of_length_le (by simp)] at htake
  exact Vector.toList_inj.1 htake

/-- After BPOP's effect the block has lost its first word (44_sblock.md R216). -/
theorem popBlock_contents (hheld : s.bcnt ≠ 0) (hle : s.bcnt.toNat ≤ 4) :
    (popBlock s).blk.toList.take (popBlock s).bcnt.toNat = (s.blk.toList.take s.bcnt.toNat).tail := by
  have hlist : s.blk.toList = [s.blk[0], s.blk[1], s.blk[2], s.blk[3]] :=
    List.ext_getElem (by simp) fun i hi _ => by
      have : i = 0 ∨ i = 1 ∨ i = 2 ∨ i = 3 := by simp at hi; omega
      obtain rfl | rfl | rfl | rfl := this <;> simp
  have hcount : (s.bcnt - 1).toNat = s.bcnt.toNat - 1 := by bv_omega
  have hcases : s.bcnt.toNat = 1 ∨ s.bcnt.toNat = 2 ∨ s.bcnt.toNat = 3 ∨ s.bcnt.toNat = 4 := by bv_omega
  rw [popBlock_blk, popBlock_bcnt, hcount, hlist]
  obtain hn | hn | hn | hn := hcases <;> simp [hn, shiftDown]

end

/-! ### What keeps two engines alike -/

section
variable {s s' : State}

theorem Alike.answer (h : Alike s s') (e : BitVec 4) (r : CharWord) : Alike (answer e r s) (answer e r s') :=
  { h with responses := by simp [h.responses] }

theorem Alike.recordError (h : Alike s s') (e : Err) : Alike (recordError e s) (recordError e s') :=
  { h with estk := rfl, elast := rfl }

theorem Alike.enterFaultState (h : Alike s s') : Alike (enterFaultState s) (enterFaultState s') :=
  { h with flt := rfl }

/-- A reset leaves nothing meaningful in the arrays, so the draw does not show (R36). -/
theorem SameToHost.resetEngine (h : SameToHost s s') : Alike (resetEngine s) (resetEngine s') where
  klen := rfl
  shift := rfl
  kav := rfl
  ttv := rfl
  kidx := rfl
  bias := rfl
  bcnt := rfl
  flt := rfl
  estk := rfl
  elast := rfl
  key := by simp [loadedKey]
  ka hv := by simp at hv
  tt hv := by simp at hv
  blk := by simp
  glyphs := h.glyphs
  inputs := h.inputs
  responses := h.responses
  awaiting := rfl

/-- Power makes every element unspecified until a reset (70_reset_and_hazards.md R320). -/
theorem SameToHost.applyPower (h : SameToHost s s') : SameToHost (applyPower s) (applyPower s') :=
  ⟨h.glyphs, h.inputs, h.responses, rfl, fun ha => by simp at ha⟩

theorem SameToHost.takeInput (h : SameToHost s s') (rest : List HostInput) :
    SameToHost { s with inputs := rest } { s' with inputs := rest } :=
  ⟨h.glyphs, rfl, h.responses, h.awaiting, fun ha => { h.contents ha with }⟩

theorem Alike.clearKey (h : Alike s s') :
    Alike (invalidateTables { s with klen := 0 }) (invalidateTables { s' with klen := 0 }) :=
  { h with
    klen := rfl
    kav := rfl
    ttv := rfl
    key := by simp [loadedKey]
    ka := fun hv => by simp at hv
    tt := fun hv => by simp at hv }

theorem Alike.pushKey (h : Alike s s') (e : KeyEntry) (hroom : s.klen.toNat < 32) :
    Alike (invalidateTables (pushKey e s)) (invalidateTables (pushKey e s')) :=
  { h with
    klen := by simp [h.klen]
    kav := rfl
    ttv := rfl
    key := by
      have hpush : loadedKey (Machine.pushKey e s) = loadedKey (Machine.pushKey e s') := by
        rw [loadedKey_pushKey e hroom, loadedKey_pushKey e (h.klen ▸ hroom), h.key]
      exact hpush
    ka := fun hv => by simp at hv
    tt := fun hv => by simp at hv }

theorem Alike.setShift (h : Alike s s') (v : RingVal) : Alike { s with shift := v } { s' with shift := v } :=
  { h with shift := rfl }

theorem Alike.clearErrors (h : Alike s s') : Alike (clearErrors s) (clearErrors s') :=
  { h with estk := rfl, elast := rfl }

theorem Alike.installAlphabet (h : Alike s s') {T T' : Table} (hT : T = T') :
    Alike { s with ka := T, kav := true } { s' with ka := T', kav := true } :=
  { h with kav := rfl, ka := fun _ => hT }

theorem Alike.installTable (h : Alike s s') {T T' : Table} {bias bias' : RingVal} (hT : T = T')
    (hbias : bias = bias') :
    Alike { s with tt := T, kidx := 0, bias := bias, ttv := true }
      { s' with tt := T', kidx := 0, bias := bias', ttv := true } :=
  { h with ttv := rfl, tt := fun _ => hT, kidx := rfl, bias := hbias }

theorem Alike.setTable (h : Alike s s') (T : Table) : Alike { s with tt := T } { s' with tt := T } :=
  { h with tt := fun _ => rfl }

theorem Alike.advance (h : Alike s s') : Alike (advance s) (advance s') :=
  { h with
    kidx := by simp [h.kidx, h.klen]
    bias := by simp [h.bias] }

theorem Alike.clearBlock (h : Alike s s') : Alike { s with bcnt := 0 } { s' with bcnt := 0 } :=
  { h with bcnt := rfl, blk := by simp }

theorem Alike.pushBlock (h : Alike s s') (ch : CharWord) (hroom : s.bcnt.toNat < 4) :
    Alike (pushBlock ch s) (pushBlock ch s') :=
  { h with
    bcnt := by simp [h.bcnt]
    blk := by rw [pushBlock_contents ch hroom, pushBlock_contents ch (h.bcnt ▸ hroom), h.blk] }

theorem Alike.popBlock (h : Alike s s') (hheld : s.bcnt ≠ 0) (hle : s.bcnt.toNat ≤ 4) :
    Alike (popBlock s) (popBlock s') :=
  { h with
    bcnt := by simp [h.bcnt]
    blk := by rw [popBlock_contents hheld hle, popBlock_contents (h.bcnt ▸ hheld) (h.bcnt ▸ hle), h.blk] }

theorem Alike.setBlock (h : Alike s s') {b b' : Block} (hb : b = b') :
    Alike { s with blk := b } { s' with blk := b' } :=
  { h with blk := by simp [h.bcnt, hb] }

/-- The block transforms run on a full block, all of which is held. -/
theorem Alike.mapBlock (h : Alike s s') (f : RingVal → RingVal → RingVal) (hfull : s.bcnt.toNat = 4) :
    Alike { s with blk := mapBlock s.glyphs f s.blk } { s' with blk := mapBlock s'.glyphs f s'.blk } :=
  h.setBlock (by rw [h.glyphs, h.blk_of_full hfull])

end

/-! ### A command, a word, a step -/

/-- Two engines that are the same to the host run a command alike, where the invariants hold: the key entry that PENC
and PDEC read is one of the loaded key (R37(d)), and BPOP moves the entries held only (R37(a)). -/
theorem exec_endAlike {s s' : State} (h : Alike s s') (hinv : EngineInv s) (i : Instr) :
    EndAlike Alike s s' (exec i s) (exec i s') := by
  cases i with
  | sreset => exact .responded rfl h.sameToHost.resetEngine
  | rdcr n =>
    exact .responded
      (controlRegister_congr n h.klen h.shift h.kav h.ttv h.kidx h.bias h.bcnt h.flt h.estk h.elast) h
  | nop | sbx | sbxi => exact endAlike_unlessFaulted h.flt (.responded rfl h)
  | clre => exact endAlike_unlessFaulted h.flt (.responded rfl h.clearErrors)
  | getc | getv | isv | add | sub => exact endAlike_unlessFaulted h.flt (.responded (by rw [h.glyphs]) h)
  | kclr => exact endAlike_unlessFaulted h.flt (.responded rfl h.clearKey)
  | kpush ch =>
    refine endAlike_unlessFaulted h.flt
      (endAlike_ite (by rw [keyFull, h.klen, ← keyFull]) (fun _ => .raised .keyovf) fun hfull => .responded rfl ?_)
    rw [← h.glyphs]
    exact h.pushKey _ (keyFull_eq_false.1 (by simpa using hfull))
  | setsh v => exact endAlike_unlessFaulted h.flt (.responded rfl (h.setShift v))
  | kabuild => exact endAlike_unlessFaulted h.flt (.responded rfl (h.installAlphabet (by rw [h.key])))
  | kard =>
    exact endAlike_unlessFaulted h.flt
      (endAlike_ite (by rw [h.kav]) (fun hv => .responded (by rw [h.glyphs, h.ka hv]) h) fun _ => .raised .noka)
  | menc | mdec => exact endAlike_unlessFaulted h.flt (endAlike_monoCipher h.glyphs h.klen h.shift h.kav h.ka h)
  | tbuild =>
    exact endAlike_unlessFaulted h.flt
      (endAlike_ite (by rw [h.key]) (fun _ => .raised .keysym) fun _ =>
        .responded rfl (h.installTable (by rw [h.key]) (by rw [h.klen])))
  | trd =>
    exact endAlike_unlessFaulted h.flt
      (endAlike_ite (by rw [h.ttv]) (fun hv => .responded (by rw [h.glyphs, h.tt hv]) h) fun _ => .raised .nott)
  | tshift => exact endAlike_tshift h.flt h.glyphs h.ttv h.tt h.setTable
  | penc | pdec =>
    have hkey (hk : s.klen ≠ 0) (hv : s.ttv = true) : entry s.key s.kidx = entry s'.key s'.kidx := by
      rw [← h.kidx, h.entry_key (hinv.kidx_lt hv (by bv_omega))]
    exact endAlike_unlessFaulted h.flt
      (endAlike_polyCipher h.glyphs h.klen h.shift h.ttv h.bias h.tt hkey h h.advance fun T => (h.setTable T).advance)
  | bclr => exact endAlike_unlessFaulted h.flt (.responded rfl h.clearBlock)
  | bpush ch =>
    exact endAlike_unlessFaulted h.flt
      (endAlike_ite (by rw [blockFull, h.bcnt, ← blockFull]) (fun _ => .raised .blklen) fun hfull =>
        .responded rfl (h.pushBlock ch (blockFull_eq_false.1 (by simpa using hfull))))
  | bpop =>
    exact endAlike_unlessFaulted h.flt
      (endAlike_ite (by rw [h.bcnt]) (fun _ => .raised .empty) fun hheld =>
        .responded (h.blk_zero hheld) (h.popBlock hheld hinv.bcnt_le))
  | sbapp | sbinv => exact endAlike_unlessFaulted h.flt (endAlike_transformBlock h.bcnt (h.mapBlock _))
  | sbkapp | sbkinv =>
    refine endAlike_unlessFaulted h.flt (endAlike_keyedTransform h.klen fun hk => ?_)
    rw [← h.blockKeyValue (by omega)]
    exact endAlike_transformBlock h.bcnt (h.mapBlock _)

theorem EndAlike.alike {s s' : State} {k k' : Result} (hk : EndAlike Alike s s' k k') (h : Alike s s') :
    ∃ t t', k = .next t ∧ k' = .next t' ∧ Alike t t' := by
  cases hk with
  | faulted => exact ⟨_, _, rfl, rfl, h.answer _ _⟩
  | raised e => exact ⟨_, _, rfl, rfl, (h.recordError e).answer _ _⟩
  | fatal => exact ⟨_, _, rfl, rfl, (h.enterFaultState.recordError _).answer _ _⟩
  | responded hr hu => exact ⟨_, _, rfl, rfl, hr ▸ hu.answer _ _⟩

theorem acceptCommand_endAlike {s s' : State} (h : Alike s s') (hinv : EngineInv s) (w : CmdWord) :
    EndAlike Alike s s' (acceptCommand w s) (acceptCommand w s') := by
  unfold acceptCommand
  cases decode w with
  | some i => exact exec_endAlike h hinv i
  | none => exact endAlike_unlessFaulted h.flt (.raised .illop)

/-- The host sees the same of two outcomes: two next states that are the same to it, or the same refusal. -/
def OutcomesAlike (k k' : Result) : Prop :=
  (∀ t : State, k = .next t → ∃ t' : State, k' = .next t' ∧ SameToHost t t') ∧
    ∀ r : Refusal, k = .refused r → k' = .refused r

theorem outcomesAlike_next {t t' : State} (h : SameToHost t t') : OutcomesAlike (.next t) (.next t') :=
  ⟨fun _ ht => ⟨t', rfl, Host.Outcome.next.inj ht ▸ h⟩, fun _ hr => nomatch hr⟩

theorem outcomesAlike_refused (r : Refusal) : OutcomesAlike (.refused r) (.refused r) :=
  ⟨fun _ ht => (nomatch ht), fun _ hr => hr⟩

/-- The step by the oldest input: a reset and power need no contents to agree, and neither does a word before the first
reset, which is a reset or refused; every other word is `acceptCommand_endAlike`'s. -/
theorem step_outcomesAlike {s s' : State} (hinv : Inv s) (h : SameToHost s s') : OutcomesAlike (step s) (step s') := by
  match hi : s.inputs with
  | [] =>
    rw [step_idle hi, step_idle (h.inputs ▸ hi)]
    exact outcomesAlike_next h
  | .rst :: rest =>
    rw [step_rst hi, step_rst (h.inputs ▸ hi)]
    exact outcomesAlike_next (h.takeInput rest).resetEngine.sameToHost
  | .powerOn :: rest =>
    rw [step_powerOn hi, step_powerOn (h.inputs ▸ hi)]
    exact outcomesAlike_next (h.takeInput rest).applyPower
  | .command w :: rest =>
    have hi' : s'.inputs = .command w :: rest := h.inputs ▸ hi
    obtain ha | ha := Bool.eq_false_or_eq_true s.awaitingReset
    · by_cases hw : decode w = some .sreset
      · rw [step_first_sreset hi hw, step_first_sreset hi' hw]
        exact outcomesAlike_next ((h.takeInput rest).resetEngine.answer _ _).sameToHost
      · rw [step_before_reset hi ha hw, step_before_reset hi' (h.awaiting ▸ ha) hw]
        exact outcomesAlike_refused _
    · rw [step_command hi ha, step_command hi' (h.awaiting ▸ ha)]
      have halike := (h.takeInput rest).alike ha
      obtain ⟨t, t', ht, ht', htt'⟩ := (acceptCommand_endAlike halike { hinv ha with } w).alike halike
      rw [ht, ht']
      exact outcomesAlike_next htt'.sameToHost

/-- Settles O15. -/
theorem unspecifiedContentsAreUnobservable : Obligations.UnspecifiedContentsAreUnobservable :=
  fun _ _ hinv _ h => step_outcomesAlike hinv h

end Sys2Proof.Machine
end

section
/-! PROOFS. What the decoder answers and what the encoder sends (30_encoding.md R91 to R97). -/

namespace Sys2Proof.Machine

/-! ### The operand forms (R94) -/

/-- The mask leaves a field as it is exactly when the field has zeros in the bits that its use does not read. -/
theorem and_not_mask_eq_zero_iff (f m : BitVec 16) : f &&& ~~~m = 0#16 ↔ f &&& m = f := by
  simp only [BitVec.eq_of_getElem_eq_iff, BitVec.getElem_and, BitVec.getElem_not, BitVec.getElem_zero]
  refine forall₂_congr fun k _ => ?_
  cases f[k] <;> simp

theorem and_mask_unused (f : BitVec 16) : f &&& OperandUse.unused.mask = 0 := BitVec.and_zero

theorem and_mask_ch (f : BitVec 16) : f &&& OperandUse.ch.mask = f := BitVec.and_allOnes

/-- Zero-extending the low `n` bits of a field clears the others. -/
theorem setWidth_low_bits (f : BitVec 16) {n : Nat} (hn : n ≤ 16) :
    (f.extractLsb' 0 n).setWidth 16 = f &&& BitVec.ofNat 16 (2 ^ n - 1) := by
  have hle : 2 ^ n ≤ 2 ^ 16 := Nat.pow_le_pow_right (by decide) hn
  have hlow : f.toNat % 2 ^ n < 2 ^ 16 := (Nat.mod_lt _ (Nat.two_pow_pos n)).trans_le hle
  have hmask : 2 ^ n - 1 < 2 ^ 16 := by omega
  refine BitVec.eq_of_toNat_eq ?_
  rw [BitVec.toNat_setWidth, BitVec.extractLsb'_toNat, Nat.shiftRight_zero, Nat.mod_eq_of_lt hlow, BitVec.toNat_and,
    BitVec.toNat_ofNat, Nat.mod_eq_of_lt hmask, Nat.and_two_pow_sub_one_eq_mod]

theorem setWidth_v5 (f : BitVec 16) : (v5 f).setWidth 16 = f &&& OperandUse.v5.mask :=
  setWidth_low_bits f (by decide)

theorem setWidth_n2 (f : BitVec 16) : (n2 f).setWidth 16 = f &&& OperandUse.n2.mask :=
  setWidth_low_bits f (by decide)

/-! ### The rows of the opcode table (R95, R96) -/

/-- Everything the decoder can answer: `none` for an unlisted opcode, else a command of that opcode. -/
theorem decodeFields_cases (op : BitVec 8) (a b : BitVec 16) :
    (unlistedOpcode op.toNat = true ∧ decodeFields op a b = none) ∨
    ∃ i, decodeFields op a b = some i ∧ i.opcode = op := by
  have := op.isLt
  unfold decodeFields
  split
  case h_31 =>
    refine .inl ⟨?_, rfl⟩
    simp only [imp_false] at *
    simp only [unlistedOpcode, Bool.or_eq_true, decide_eq_true_eq]
    omega
  all_goals exact .inr ⟨_, rfl, BitVec.eq_of_toNat_eq (Eq.symm ‹op.toNat = _›)⟩

theorem opcode_of_decodeFields {op : BitVec 8} {a b : BitVec 16} {i : Instr} (h : decodeFields op a b = some i) :
    i.opcode = op := by
  obtain ⟨-, hnone⟩ | ⟨j, hj, hop⟩ := decodeFields_cases op a b
  · simp [hnone] at h
  · exact Option.some.inj (hj.symm.trans h) ▸ hop

theorem unlistedOpcode_opcode (i : Instr) : unlistedOpcode i.opcode.toNat = false := by cases i <;> rfl

theorem decodeFields_eq_none_iff {op : BitVec 8} {a b : BitVec 16} :
    decodeFields op a b = none ↔ unlistedOpcode op.toNat = true := by
  obtain ⟨hop, hnone⟩ | ⟨i, hi, rfl⟩ := decodeFields_cases op a b
  · simp [hop, hnone]
  · simp [hi, unlistedOpcode_opcode]

/-- The decoder reads a command back from its opcode and its operands. -/
theorem decodeFields_operands (i : Instr) : decodeFields i.opcode i.aOperand i.bOperand = some i := by
  cases i with
  | rdcr n => exact congrArg (some ∘ Instr.rdcr) (n2_setWidth n)
  | getc v => exact congrArg (some ∘ Instr.getc) (v5_setWidth v)
  | setsh v => exact congrArg (some ∘ Instr.setsh) (v5_setWidth v)
  | kard v => exact congrArg (some ∘ Instr.kard) (v5_setWidth v)
  | trd v => exact congrArg (some ∘ Instr.trd) (v5_setWidth v)
  | sbx v => exact congrArg (some ∘ Instr.sbx) (v5_setWidth v)
  | sbxi v => exact congrArg (some ∘ Instr.sbxi) (v5_setWidth v)
  | tshift target v => exact congrArg (some ∘ Instr.tshift target) (v5_setWidth v)
  | _ => rfl

/-- What a decoded command keeps of the operand fields: the bits its row of R95 reads (R94, R97). -/
theorem operands_of_decodeFields {op : BitVec 8} {a b : BitVec 16} {i : Instr} (h : decodeFields op a b = some i) :
    ∃ ua ub, operandUses op = some (ua, ub) ∧ i.aOperand = a &&& ua.mask ∧ i.bOperand = b &&& ub.mask := by
  obtain rfl := opcode_of_decodeFields h
  cases i with
  | nop | sreset | clre | kclr | kabuild | tbuild | bclr | bpop | sbapp | sbinv | sbkapp | sbkinv =>
    exact ⟨.unused, .unused, rfl, (and_mask_unused a).symm, (and_mask_unused b).symm⟩
  | rdcr n =>
    cases h
    exact ⟨.n2, .unused, rfl, setWidth_n2 a, (and_mask_unused b).symm⟩
  | getc v | setsh v | kard v | trd v | sbx v | sbxi v =>
    cases h
    exact ⟨.v5, .unused, rfl, setWidth_v5 a, (and_mask_unused b).symm⟩
  | getv c | isv c | kpush c | menc c | mdec c | penc c | pdec c | bpush c =>
    cases h
    exact ⟨.ch, .unused, rfl, (and_mask_ch a).symm, (and_mask_unused b).symm⟩
  | add c1 c2 | sub c1 c2 =>
    cases h
    exact ⟨.ch, .ch, rfl, (and_mask_ch a).symm, (and_mask_ch b).symm⟩
  | tshift c v =>
    cases h
    exact ⟨.ch, .v5, rfl, (and_mask_ch a).symm, setWidth_v5 b⟩

theorem operandUses_eq_none_of_unlisted :
    ∀ op : BitVec 8, unlistedOpcode op.toNat = true → operandUses op = none := by decide

/-- Every opcode whose operand columns R95 gives decodes to a command. -/
theorem exists_decodeFields {op : BitVec 8} {u : OperandUse × OperandUse} (h : operandUses op = some u)
    (a b : BitVec 16) : ∃ i, decodeFields op a b = some i ∧ i.opcode = op := by
  obtain ⟨hop, -⟩ | hi := decodeFields_cases op a b
  · simp [operandUses_eq_none_of_unlisted op hop] at h
  · exact hi

/-- A command is its opcode and its operands. -/
theorem eq_of_operands {i j : Instr} (hop : i.opcode = j.opcode) (ha : i.aOperand = j.aOperand)
    (hb : i.bOperand = j.bOperand) : i = j := by
  have hi := decodeFields_operands i
  rw [hop, ha, hb, decodeFields_operands] at hi
  exact (Option.some.inj hi).symm

/-! ### Words (R91) -/

/-- A word is one a host should send when the masks of its row leave its operand fields as they are (R97). -/
theorem wordWellFormed_iff {w : CmdWord} {ua ub : OperandUse} (h : operandUses (opField w) = some (ua, ub)) :
    wordWellFormed w = true ↔ aField w &&& ua.mask = aField w ∧ bField w &&& ub.mask = bField w := by
  unfold opField at h
  simp [wordWellFormed, h, ← and_not_mask_eq_zero_iff, aField, bField]

theorem packWord_eq_iff {op : BitVec 8} {a b : BitVec 16} {w : CmdWord} :
    packWord op a b = w ↔ op = opField w ∧ a = aField w ∧ b = bField w := by
  constructor
  · rintro rfl
    simp
  · rintro ⟨rfl, rfl, rfl⟩
    exact packWord_of_fields w

theorem decode_encode (i : Instr) : decode (encode i) = some i :=
  (decode_packWord _ _ _).trans (decodeFields_operands i)

/-- Settles O2: both sides say that the masks of the command's row leave the word's operand fields as they are. -/
theorem canonicalWordEncodesBack : Obligations.CanonicalWordEncodesBack := by
  intro w i h
  obtain ⟨ua, ub, huses, ha, hb⟩ := operands_of_decodeFields h
  rw [wordWellFormed_iff huses, encode, packWord_eq_iff, opcode_of_decodeFields h, ha, hb]
  simp

theorem wellFormed_eq_true (i : Instr) : i.wellFormed = true := by
  have hn2 (n : BitVec 2) : n.toNat < 4 := n.isLt
  have hv5 (v : RingVal) : v.toNat < 32 := v.isLt
  have hch (c : CharWord) : c.toNat < 2 ^ 16 := c.isLt
  cases i <;> simp only [Instr.wellFormed, hn2, hv5, hch, decide_true, Bool.and_self]

/-- Settles O1: a command's word is the encoding of what it decodes to, so it is well formed by
`canonicalWordEncodesBack`. -/
theorem decodeEncodeRoundTrip : Obligations.DecodeEncodeRoundTrip := fun i =>
  ⟨wellFormed_eq_true i, (canonicalWordEncodesBack (encode i) i (decode_encode i)).2 rfl, decode_encode i⟩

/-- Settles O4: the two words decode to commands of one opcode whose operands are the same masked fields. -/
theorem ignoredBitsHaveNoEffect : Obligations.IgnoredBitsHaveNoEffect := by
  constructor
  · intro w w' ua ub huses hop ha hb
    obtain ⟨i, hi, hiop⟩ := exists_decodeFields huses (aField w) (bField w)
    obtain ⟨i', hi', hiop'⟩ := exists_decodeFields (hop.symm ▸ huses) (aField w') (bField w')
    obtain ⟨ua₁, ub₁, huses₁, hia, hib⟩ := operands_of_decodeFields hi
    obtain ⟨ua₂, ub₂, huses₂, hia', hib'⟩ := operands_of_decodeFields hi'
    obtain ⟨rfl, rfl⟩ : ua = ua₁ ∧ ub = ub₁ := by simpa [huses] using huses₁
    obtain ⟨rfl, rfl⟩ : ua = ua₂ ∧ ub = ub₂ := by simpa [hop, huses] using huses₂
    have heq : i' = i := eq_of_operands (by rw [hiop', hiop, hop]) (by rw [hia', hia, ha]) (by rw [hib', hib, hb])
    exact hi'.trans (heq ▸ hi.symm)
  · intro w w' i i' hi hi'
    rw [opcode_of_decodeFields hi, opcode_of_decodeFields hi']

/-- Settles O5. -/
theorem specWordsDecode : Obligations.SpecWordsDecode := by
  unfold Obligations.SpecWordsDecode
  decide

end Sys2Proof.Machine
end

section
/-! PROOFS. The command interface: what an engine that has been reset does with a word (30_encoding.md R90, R93,
R96). -/

namespace Sys2Proof.Machine

theorem acceptCommand_of_decode {w : CmdWord} {i : Instr} (h : decode w = some i) (s : State) :
    acceptCommand w s = exec i s := by
  simp [acceptCommand, h]

theorem acceptCommand_of_illegal {w : CmdWord} (h : decode w = none) (s : State) :
    acceptCommand w s = rejectIllegal s := by
  simp [acceptCommand, h]

/-- Settles O6. -/
theorem stepRunsDecodedCommand : Obligations.StepRunsDecodedCommand := fun _ _ _ _ hi ha hw =>
  (step_command hi ha).trans (acceptCommand_of_decode hw _)

theorem decode_eq_none_iff (w : CmdWord) : decode w = none ↔ unlistedOpcode (opField w).toNat = true :=
  decodeFields_eq_none_iff

/-- Settles O3: the decoder answers `none` for the unlisted ranges only, and such a word goes to `rejectIllegal`. -/
theorem unlistedOpcodesAreIllegal : Obligations.UnlistedOpcodesAreIllegal := by
  refine ⟨decode_eq_none_iff, rfl, fun s w rest hi ha hf hop => ?_⟩
  calc step s = rejectIllegal { s with inputs := rest } :=
        (step_command hi ha).trans (acceptCommand_of_illegal ((decode_eq_none_iff w).2 hop) _)
    _ = .next (answer 1 0 (recordError .illop { s with inputs := rest })) := by simp [rejectIllegal_eq, hf]

/-- Every way a command can end is a next state. -/
theorem Ends.exists_next {E : List Err} {Q : State → Prop} {s : State} {k : Result} (h : Ends E Q s k) :
    ∃ t, k = .next t := by
  cases h <;> exact ⟨_, rfl⟩

theorem exec_answers (i : Instr) (s : State) : ∃ t, exec i s = .next t := by
  by_cases hi : i = .sreset
  · subst hi
    exact ⟨_, exec_sreset s⟩
  · exact (exec_ends hi s).exists_next

/-- An accepted word, legal or not, gives one response and takes no further input (R93). -/
theorem acceptCommand_gives_one_response (w : CmdWord) (s : State) :
    ∃ t r, acceptCommand w s = .next t ∧ t.inputs = s.inputs ∧ t.responses = s.responses ++ [r] := by
  obtain ⟨i, hw⟩ | hw := acceptCommand_cases w s
  · obtain ⟨t, ht⟩ := exec_answers i s
    obtain ⟨-, hinputs, -, -, r, hr⟩ := writeMatrixHolds i s t ht
    exact ⟨t, r, hw.trans ht, hinputs, hr⟩
  · rw [hw, rejectIllegal_eq]
    cases s.flt
    · exact ⟨_, ⟨1, 0⟩, rfl, rfl, rfl⟩
    · exact ⟨_, ⟨15, 0⟩, rfl, rfl, rfl⟩

/-- Settles O7, by the oldest input. -/
theorem everyCommandGetsOneResponse : Obligations.EveryCommandGetsOneResponse := by
  constructor
  · intro s w rest hi ha
    rw [step_command hi ha]
    exact acceptCommand_gives_one_response w { s with inputs := rest }
  · intro s hnone
    match hi : s.inputs with
    | [] => exact ⟨s, step_idle hi, rfl⟩
    | .rst :: rest => exact ⟨_, step_rst hi, rfl⟩
    | .powerOn :: rest => exact ⟨_, step_powerOn hi, rfl⟩
    | .command w :: rest => exact absurd hi (hnone w rest)

end Sys2Proof.Machine
end

section
/-! PROOFS. The ring unit (40_ring.md): GETC, GETV, ISV, ADD and SUB, and the ring arithmetic they rest on. -/

namespace Sys2Proof.Machine

/-! ### Numbers as ring values (00_scope.md R12, 40_ring.md R126) -/

/-- Ring values are numbers modulo 32 already: reducing first changes nothing. -/
@[simp] theorem ringVal_ofNat_mod (n : Nat) : BitVec.ofNat 5 (n % 32) = BitVec.ofNat 5 n :=
  BitVec.eq_of_toNat_eq (by simp)

@[simp] theorem ringVal_ofInt_emod (n : Int) : BitVec.ofInt 5 (n % 32) = BitVec.ofInt 5 n :=
  BitVec.eq_of_toNat_eq (by simp)

/-- The operand form `v5` takes a field modulo 32 (30_encoding.md R94). -/
theorem v5_eq_ofNat_mod (f : BitVec 16) : v5 f = BitVec.ofNat 5 (f.toNat % 32) :=
  BitVec.eq_of_toNat_eq (by simp [v5])

/-- The sum of two ring values as numbers names their wrapping sum. -/
theorem ringVal_ofNat_add (v w : RingVal) : BitVec.ofNat 5 (v.toNat + w.toNat) = v + w := by
  simp [BitVec.ofNat_add]

/-- The difference as an integer, negative or not, names the wrapping difference. -/
theorem ringVal_ofInt_sub (v w : RingVal) : BitVec.ofInt 5 ((v.toNat : Int) - w.toNat) = v - w := by
  simp [Int.sub_eq_add_neg, BitVec.ofInt_add, BitVec.ofInt_neg, BitVec.sub_eq_add_neg]

/-! ### `val` and `glyph` (00_scope.md R14) -/

theorem val_of_hasGlyph {g : GlyphTable} (hg : g.Valid) {ch : CharWord} {v : RingVal} (h : g.hasGlyph v ch = true) :
    val g ch = v :=
  congrArg KeyEntry.v (classify_of_hasGlyph hg h)

theorem val_of_nonmember {g : GlyphTable} {ch : CharWord} (h : ∀ v, g.hasGlyph v ch = false) : val g ch = 0 :=
  congrArg KeyEntry.v (classify_of_nonmember h)

theorem val_glyph {g : GlyphTable} (hg : g.Valid) (v : RingVal) : val g (glyph g v) = v :=
  val_of_hasGlyph hg (hasGlyph_upAt g v)

/-! ### What the commands answer outside the fault state -/

section
variable {s : State} (hf : s.flt = false)
include hf

theorem exec_getc (v : RingVal) : exec (.getc v) s = .next (answer 0 (glyph s.glyphs v) s) :=
  unlessFaulted_of_ok hf _

theorem exec_getv (ch : CharWord) : exec (.getv ch) s = .next (answer 0 ((val s.glyphs ch).setWidth 16) s) :=
  unlessFaulted_of_ok hf _

theorem exec_isv (ch : CharWord) :
    exec (.isv ch) s = .next (answer 0 ((BitVec.ofBool (classify s.glyphs ch).m).setWidth 16) s) :=
  unlessFaulted_of_ok hf _

theorem exec_add (c1 c2 : CharWord) :
    exec (.add c1 c2) s = .next (answer 0 (glyph s.glyphs (val s.glyphs c1 + val s.glyphs c2)) s) :=
  unlessFaulted_of_ok hf _

theorem exec_sub (c1 c2 : CharWord) :
    exec (.sub c1 c2) s = .next (answer 0 (glyph s.glyphs (val s.glyphs c1 - val s.glyphs c2)) s) :=
  unlessFaulted_of_ok hf _

end

/-! ### The statements -/

/-- Settles O27: `classify` answers the one value the word is a glyph of, or the sentinel. -/
theorem getvAndIsvLookUpTheSymbol : Obligations.GetvAndIsvLookUpTheSymbol := by
  constructor
  · intro ch v s hf hg hmember
    rw [exec_getv hf, exec_isv hf, val_of_hasGlyph hg hmember, classify_of_hasGlyph hg hmember, BitVec.ofNat_toNat]
    exact ⟨rfl, rfl⟩
  · intro ch s hf hnone
    rw [exec_getv hf, exec_isv hf, val_of_nonmember hnone, classify_of_nonmember hnone]
    exact ⟨rfl, rfl⟩

/-- Settles O29: the answer of ADD is the glyph of the sum, which SUB reads back by `val_glyph`. -/
theorem subUndoesAdd : Obligations.SubUndoesAdd := by
  intro x y s hf hg
  refine ⟨_, _, exec_add hf x y, rfl, ?_⟩
  have hback : val s.glyphs (glyph s.glyphs (val s.glyphs x + val s.glyphs y)) - val s.glyphs y = val s.glyphs x := by
    rw [val_glyph hg, BitVec.add_sub_cancel]
  rw [exec_sub ((answer_flt _ _ s).trans hf), answer_glyphs, hback]
  simp [answer]

/-- Settles O26. -/
theorem getcAnswersTheGlyph : Obligations.GetcAnswersTheGlyph :=
  ⟨fun a _ => congrArg (some ∘ Instr.getc) (v5_eq_ofNat_mod a), fun v _ hf => exec_getc hf v⟩

/-- Settles O28: the wrapping sum and difference of the model are the exact ones reduced modulo 32. -/
theorem addAndSubWorkModulo32 : Obligations.AddAndSubWorkModulo32 := by
  intro c1 c2 s hf
  rw [ringVal_ofNat_mod, ringVal_ofInt_emod, ringVal_ofNat_add, ringVal_ofInt_sub]
  exact ⟨exec_add hf c1 c2, exec_sub hf c1 c2⟩

end Sys2Proof.Machine
end

section
/-! PROOFS. Key and shift loading (41_key.md): KCLR, KPUSH and SETSH. -/

namespace Sys2Proof.Machine

/-- Below its capacity the key buffer takes the entry at `KLEN` (41_key.md R141). -/
theorem pushKey_key_of_room (e : KeyEntry) {s : State} (hroom : s.klen.toNat < 32) :
    (pushKey e s).key = s.key.set s.klen.toNat e hroom := by
  apply Vector.toList_inj.1
  rw [pushKey_key, Vector.toList_setIfInBounds, Vector.toList_set]

/-- A ring value depends on the low 5 bits of a field only, so the two's complement of an integer names the integer
modulo 32 (41_key.md R142). -/
theorem v5_ofInt (n : Int) : v5 (BitVec.ofInt 16 n) = BitVec.ofInt 5 (n % 32) := by
  have hlow : (n % 2 ^ 16).toNat % 32 = (n % 32).toNat := by omega
  apply BitVec.eq_of_toNat_eq
  simpa [v5_eq_ofNat_mod] using hlow

/-- The lower-case glyph of a value is one of its glyphs (00_scope.md R14). -/
theorem hasGlyph_loAt {g : GlyphTable} {v : RingVal} {ch : CharWord} (h : g.loAt v = some ch) :
    g.hasGlyph v ch = true :=
  hasGlyph_iff_mem_glyphsOf.2 (by simp [glyphsOf, h])

/-- Either case of a symbol is classified alike (00_scope.md R14). -/
theorem classify_loAt {g : GlyphTable} (hg : g.Valid) {v : RingVal} {ch : CharWord} (h : g.loAt v = some ch) :
    classify g ch = classify g (g.upAt v) :=
  (classify_of_hasGlyph hg (hasGlyph_loAt h)).trans (classify_upAt hg v).symm

/-! ### What the commands do outside the fault state -/

section
variable {s : State} (hf : s.flt = false)
include hf

theorem exec_kclr : exec .kclr s = .next (answer 0 0 (invalidateTables { s with klen := 0 })) :=
  unlessFaulted_of_ok hf _

theorem exec_kpush_of_room (ch : CharWord) (hroom : s.klen.toNat < 32) :
    exec (.kpush ch) s = .next (answer 0 0 (invalidateTables (pushKey (classify s.glyphs ch) s))) := by
  have hnotFull : keyFull s = false := keyFull_eq_false.2 hroom
  exact (unlessFaulted_of_ok hf _).trans (by simp [hnotFull, respond])

theorem exec_kpush_of_full (ch : CharWord) (hfull : 32 ≤ s.klen.toNat) :
    exec (.kpush ch) s = .next (answer 7 0 (recordError .keyovf s)) := by
  have hkeyFull : keyFull s = true := decide_eq_true hfull
  exact (unlessFaulted_of_ok hf _).trans (by simp [hkeyFull, errCode])

theorem exec_setsh (v : RingVal) : exec (.setsh v) s = .next (answer 0 0 { s with shift := v }) :=
  unlessFaulted_of_ok hf _

end

/-! ### The statements -/

/-- Settles O33, by the two ends of KPUSH, with room in the buffer and with none, and by what `classify` answers. -/
theorem kpushAppendsOneCharacter : Obligations.KpushAppendsOneCharacter := by
  refine ⟨fun ch s hroom hf => ?_, fun ch s hf hfull => ?_, fun _ _ _ hg => classify_loAt hg,
    fun _ _ => classify_of_nonmember⟩
  · rw [exec_kpush_of_room hf ch hroom, ← pushKey_key_of_room]
    rfl
  · exact exec_kpush_of_full hf ch (by simp [hfull])

/-- Settles O32: with `KLEN` zero, `CR1` (10_state.md R34) shows the unchanged shift constant alone. -/
theorem kclrStartsANewKey : Obligations.KclrStartsANewKey := by
  refine ⟨fun s hf => exec_kclr hf, fun s t hf hshift ht => ?_⟩
  obtain rfl := Host.Outcome.next.inj ((exec_kclr hf).symm.trans ht)
  simp [controlRegister, cr1, hshift]

/-- Settles O34: SETSH takes its operand by `v5`, of a number by `v5_eq_ofNat_mod` and of an integer by `v5_ofInt`. -/
theorem setshSetsTheShift : Obligations.SetshSetsTheShift :=
  ⟨fun a _ => congrArg (some ∘ Instr.setsh) (v5_eq_ofNat_mod a),
    fun n _ => congrArg (some ∘ Instr.setsh) (v5_ofInt n), fun v _ hf => exec_setsh hf v⟩

end Sys2Proof.Machine
end

section
/-! PROOFS. The keyed alphabet (42_keyed_alphabet_mono.md R160 to R162), and reading one entry of a table (R162,
43_poly.md R184). -/

namespace Sys2Proof.Machine

/-! ### What `kabuild` gives (R160) -/

/-- The first loop of R160 is the loop over the key's members alone. -/
theorem foldl_keepMember (K : List KeyEntry) (out : List RingVal) :
    K.foldl keepMember out = (memberValues K).foldl appendNew out := by
  rw [memberValues, List.foldl_map, List.foldl_filter]
  rfl

/-- A value that is there already is a repeat, and is dropped; a new one stands at the end. -/
theorem eraseDups_concat (l : List RingVal) (v : RingVal) : (l ++ [v]).eraseDups = appendNew l.eraseDups v := by
  rw [List.eraseDups_append, appendNew]
  by_cases h : v ∈ l
  · simp [List.removeAll, h]
  · simp [List.removeAll, h, List.eraseDups_cons]

/-- Keeping a value the first time it is seen drops the repeats. -/
theorem foldl_appendNew_nil (l : List RingVal) : l.foldl appendNew [] = l.eraseDups := by
  induction l using List.reverseRecOn with
  | nil => rfl
  | append_singleton l v ih => rw [List.foldl_append, ih, eraseDups_concat, List.foldl_cons, List.foldl_nil]

/-- Settles O36: the first loop keeps the first occurrences, the second appends the values not among them. -/
theorem kabuildKeepsFirstOccurrences : Obligations.KabuildKeepsFirstOccurrences := by
  intro K
  refine ⟨?_, kabuild_perm K⟩
  rw [kabuild, foldl_keepMember, foldl_appendNew_nil, fillInRingOrder_eq]
  simp only [List.mem_eraseDups]

/-- The table KABUILD stores holds the 32 values of `kabuild`, none cut off and none filled in. -/
theorem tableOf_kabuild_toList (K : List KeyEntry) : (tableOf (kabuild K)).toList = kabuild K :=
  tableOf_toList ((kabuild_perm K).length_eq.trans ringValues_length)

/-! ### What the commands do outside the fault state -/

section
variable {s : State} (hf : s.flt = false)
include hf

theorem exec_kabuild :
    exec .kabuild s = .next (answer 0 0 { s with ka := tableOf (kabuild (loadedKey s)), kav := true }) :=
  unlessFaulted_of_ok hf _

theorem exec_kard_of_valid (hv : s.kav = true) (j : RingVal) :
    exec (.kard j) s = .next (answer 0 (glyph s.glyphs (entry s.ka j)) s) :=
  (unlessFaulted_of_ok hf _).trans (if_pos hv)

theorem exec_kard_of_stale (hv : s.kav = false) (j : RingVal) :
    exec (.kard j) s = .next (answer 4 0 (recordError .noka s)) :=
  (unlessFaulted_of_ok hf _).trans (if_neg (Bool.not_eq_true _ ▸ hv))

theorem exec_trd_of_valid (hv : s.ttv = true) (j : RingVal) :
    exec (.trd j) s = .next (answer 0 (glyph s.glyphs (entry s.tt j)) s) :=
  (unlessFaulted_of_ok hf _).trans (if_pos hv)

theorem exec_trd_of_stale (hv : s.ttv = false) (j : RingVal) :
    exec (.trd j) s = .next (answer 5 0 (recordError .nott s)) :=
  (unlessFaulted_of_ok hf _).trans (if_neg (Bool.not_eq_true _ ▸ hv))

end

/-! ### The statements -/

/-- Settles O37. -/
theorem kabuildBuildsTheKeyedAlphabet : Obligations.KabuildBuildsTheKeyedAlphabet := fun s hf =>
  ⟨tableOf (kabuild (loadedKey s)), tableOf_kabuild_toList _, exec_kabuild hf⟩

/-- Settles O38, by the valid bit of each table. -/
theorem kardAndTrdReadOneEntry : Obligations.KardAndTrdReadOneEntry :=
  ⟨fun a _ => ⟨congrArg (some ∘ Instr.kard) (v5_eq_ofNat_mod a), congrArg (some ∘ Instr.trd) (v5_eq_ofNat_mod a)⟩,
    fun j _ hf => ⟨fun hv => exec_kard_of_valid hf hv j, fun hv => exec_kard_of_stale hf hv j,
      fun hv => exec_trd_of_valid hf hv j, fun hv => exec_trd_of_stale hf hv j⟩⟩

end Sys2Proof.Machine
end

section
/-! PROOFS. The monoalphabetic cipher (42_keyed_alphabet_mono.md R163 to R165): MENC and MDEC. -/

namespace Sys2Proof.Machine

/-! ### The cases of the cipher (R163, R164) -/

section
variable {s : State} {ch : CharWord} (move : RingVal → RingVal → RingVal)

theorem monoCipher_of_emptyKey (hk : s.klen = 0) : monoCipher move ch s = .next (answer 0 ch s) :=
  if_pos hk

theorem monoCipher_of_stale (hk : s.klen ≠ 0) (hv : s.kav = false) :
    monoCipher move ch s = .next (answer 4 0 (recordError .noka s)) :=
  (if_neg hk).trans (by simp [hv, errCode])

theorem monoCipher_of_nonmember (hk : s.klen ≠ 0) (hv : s.kav = true) (hm : (classify s.glyphs ch).m = false) :
    monoCipher move ch s = .next (answer 0 ch s) :=
  (if_neg hk).trans (by simp [hv, hm])

theorem monoCipher_of_index (hk : s.klen ≠ 0) (hv : s.kav = true) (hm : (classify s.glyphs ch).m = true) {j : RingVal}
    (hj : indexOf s.ka (val s.glyphs ch) = some j) :
    monoCipher move ch s = .next (answer 0 (glyph s.glyphs (entry s.ka (move j s.shift))) s) :=
  (if_neg hk).trans (by simp [hv, hm, hj])

theorem monoCipher_of_noIndex (hk : s.klen ≠ 0) (hv : s.kav = true) (hm : (classify s.glyphs ch).m = true)
    (hnone : indexOf s.ka (val s.glyphs ch) = none) :
    monoCipher move ch s = .next (answer 15 0 (recordError .fatal (enterFaultState s))) :=
  (if_neg hk).trans (by simp [hv, hm, hnone])

end

theorem exec_menc {s : State} (hf : s.flt = false) (ch : CharWord) :
    exec (.menc ch) s = monoCipher (fun j k => j + k) ch s :=
  unlessFaulted_of_ok hf _

theorem exec_mdec {s : State} (hf : s.flt = false) (ch : CharWord) :
    exec (.mdec ch) s = monoCipher (fun j k => j - k) ch s :=
  unlessFaulted_of_ok hf _

/-- A value that no entry holds has no index (00_scope.md R14). -/
theorem indexOf_of_absent {A : Table} {v : RingVal} (h : ∀ j, entry A j ≠ v) : indexOf A v = none :=
  Option.eq_none_iff_forall_ne_some.2 fun j hj => h j (indexOf_eq_some hj).1

/-- Settles O39: the five cases of the cipher, once for the index moved on and once for the index moved back. -/
theorem mencAndMdecSubstitute : Obligations.MencAndMdecSubstitute := by
  intro ch s hf
  rw [exec_menc hf, exec_mdec hf]
  refine ⟨fun hk => ?_, fun hk hv => ?_, fun hk hv hm => ?_, fun j hk hv hm hj => ?_, fun hk hv hm hnone => ?_⟩
  · exact ⟨monoCipher_of_emptyKey _ hk, monoCipher_of_emptyKey _ hk⟩
  · exact ⟨monoCipher_of_stale _ hk hv, monoCipher_of_stale _ hk hv⟩
  · exact ⟨monoCipher_of_nonmember _ hk hv hm, monoCipher_of_nonmember _ hk hv hm⟩
  · have hindex : indexOf s.ka (val s.glyphs ch) = some j := indexOf_of_least hj.1 hj.2
    exact ⟨monoCipher_of_index _ hk hv hm hindex, monoCipher_of_index _ hk hv hm hindex⟩
  · have hindex : indexOf s.ka (val s.glyphs ch) = none := indexOf_of_absent hnone
    exact ⟨monoCipher_of_noIndex _ hk hv hm hindex, monoCipher_of_noIndex _ hk hv hm hindex⟩

/-! ### Success changes nothing but the responses (R165(e)) -/

/-- No error has the code of success (60_exceptions.md R281). -/
theorem errCode_ne_zero (e : Err) : errCode e ≠ 0 := by cases e <;> decide

/-- A command that answered code 0 ended with a response. -/
theorem Ends.of_success {E : List Err} {Q : State → Prop} {s t : State} {r : CharWord} (h : Ends E Q s (.next t))
    (hr : t.responses = s.responses ++ [⟨0, r⟩]) : ∃ (r' : CharWord) (u : State), Q u ∧ t = answer 0 r' u := by
  cases h with
  | faulted | fatal => simp at hr
  | @raised e => 
    obtain ⟨hcode, -⟩ : errCode e = 0 ∧ 0 = r := by simpa using hr
    exact absurd hcode (errCode_ne_zero e)
  | responded r' hu => exact ⟨r', _, hu, rfl⟩

/-- MENC and MDEC answer a success from the very state they started in. -/
theorem mono_ends {s t : State} {ch : CharWord} (h : exec (.menc ch) s = .next t ∨ exec (.mdec ch) s = .next t) :
    Ends [.noka, .fatal] (· = s) s (.next t) := by
  obtain h | h := h
  all_goals
    rw [← h]
    exact ends_unlessFaulted fun hf => ends_monoCipher hf (by decide) (fun _ _ _ => by decide) rfl

theorem monoKeepsState (s : State) : MonoKeepsState s := by
  intro ch t r h hr
  obtain ⟨r', u, rfl, rfl⟩ := (mono_ends h).of_success hr
  obtain rfl : r' = r := by simpa using hr
  rfl

/-! ### Substitution with a built alphabet (R165(b), (d)) -/

/-- The engine is ready to substitute: a key is loaded and its alphabet built, over a glyph table that meets the
constraint of R8. -/
structure MonoReady (s : State) : Prop where
  ok : s.flt = false
  valid : s.glyphs.Valid
  key : s.klen ≠ 0
  built : s.kav = true
  perm : IsPermutation s.ka

theorem MonoReady.answer {s : State} (h : MonoReady s) (e : BitVec 4) (r : CharWord) : MonoReady (answer e r s) :=
  { h with }

theorem EngineInv.monoReady {s : State} (h : EngineInv s) (hg : s.glyphs.Valid) (hk : s.klen ≠ 0)
    (hv : s.kav = true) : MonoReady s :=
  ⟨h.not_faulted, hg, hk, hv, h.ka_perm hv⟩

theorem monoReady_installAlphabet {s : State} (hf : s.flt = false) (hg : s.glyphs.Valid) (hk : s.klen ≠ 0) {T : Table}
    (hT : IsPermutation T) : MonoReady { s with ka := T, kav := true } :=
  ⟨hf, hg, hk, rfl, hT⟩

/-- KABUILD makes the engine ready, whatever key is loaded. -/
theorem monoReady_of_exec_kabuild {s t : State} (h : exec .kabuild s = .next t) (hf : s.flt = false)
    (hg : s.glyphs.Valid) (hk : s.klen ≠ 0) : MonoReady t := by
  obtain rfl := Host.Outcome.next.inj ((exec_kabuild hf).symm.trans h)
  exact (monoReady_installAlphabet hf hg hk (tableOf_isPermutation (kabuild_perm _))).answer 0 0

/-- In a permutation `index_of` finds an entry where it stands (00_scope.md R14). -/
theorem indexOf_entry {T : Table} (h : IsPermutation T) (j : RingVal) : indexOf T (entry T j) = some j :=
  indexOf_of_least rfl fun _ hk he => BitVec.lt_irrefl j (entry_injective h he ▸ hk)

/-- Every ring value stands at some index of a permutation. -/
theorem exists_entry {T : Table} (h : IsPermutation T) (v : RingVal) : ∃ j, entry T j = v :=
  (indexOf_of_perm h v).imp fun _ hj => hj.2

section
variable {s : State} (h : MonoReady s) {ch : CharWord}
include h

/-- The cipher finds a member at its one index in the alphabet. -/
theorem MonoReady.monoCipher_entry (move : RingVal → RingVal → RingVal) {j : RingVal}
    (hc : classify s.glyphs ch = ⟨true, entry s.ka j⟩) :
    monoCipher move ch s = .next (Machine.answer 0 (glyph s.glyphs (entry s.ka (move j s.shift))) s) := by
  have hindex : indexOf s.ka (val s.glyphs ch) = some j := by rw [val, hc, indexOf_entry h.perm]
  exact monoCipher_of_index move h.key h.built (by rw [hc]) hindex

theorem MonoReady.menc_entry {j : RingVal} (hc : classify s.glyphs ch = ⟨true, entry s.ka j⟩) :
    exec (.menc ch) s = .next (Machine.answer 0 (glyph s.glyphs (entry s.ka (j + s.shift))) s) :=
  (exec_menc h.ok ch).trans (h.monoCipher_entry _ hc)

theorem MonoReady.mdec_entry {j : RingVal} (hc : classify s.glyphs ch = ⟨true, entry s.ka j⟩) :
    exec (.mdec ch) s = .next (Machine.answer 0 (glyph s.glyphs (entry s.ka (j - s.shift))) s) :=
  (exec_mdec h.ok ch).trans (h.monoCipher_entry _ hc)

theorem MonoReady.menc_nonmember (hm : (classify s.glyphs ch).m = false) :
    exec (.menc ch) s = .next (Machine.answer 0 ch s) :=
  (exec_menc h.ok ch).trans (monoCipher_of_nonmember _ h.key h.built hm)

theorem MonoReady.mdec_nonmember (hm : (classify s.glyphs ch).m = false) :
    exec (.mdec ch) s = .next (Machine.answer 0 ch s) :=
  (exec_mdec h.ok ch).trans (monoCipher_of_nonmember _ h.key h.built hm)

/-- R165(b): MENC moves the index `SHIFT` places on, and MDEC finds it there and moves it back. -/
theorem MonoReady.roundTrips : MonoRoundTrips s := by
  intro ch
  obtain ⟨v, -, hc⟩ | ⟨-, hc⟩ := classify_cases s.glyphs ch
  · obtain ⟨j, rfl⟩ := exists_entry h.perm v
    have hupper : upperCase s.glyphs ch = glyph s.glyphs (entry s.ka j) := by simp [upperCase, val, hc]
    refine ⟨_, _, _, h.menc_entry hc, rfl, (h.answer _ _).mdec_entry (classify_upAt h.valid _), ?_⟩
    simp [hupper]
  · have hm : (classify s.glyphs ch).m = false := by rw [hc]
    have hupper : upperCase s.glyphs ch = ch := by simp [upperCase, hm]
    refine ⟨_, _, _, h.menc_nonmember hm, rfl, (h.answer _ _).mdec_nonmember hm, ?_⟩
    simp [hupper]

/-- R165(d): tables that follow the alphabet, entry by entry, are what MENC and MDEC substitute with. -/
theorem MonoReady.substitutes {enc dec : List RingVal}
    (henc : ∀ j, enc.getD (entry s.ka j).toNat 0 = entry s.ka (j + s.shift))
    (hdec : ∀ j, dec.getD (entry s.ka j).toNat 0 = entry s.ka (j - s.shift)) : MonoSubstitutes enc dec s := by
  intro v
  obtain ⟨j, rfl⟩ := exists_entry h.perm v
  have hc : classify s.glyphs (glyph s.glyphs (entry s.ka j)) = ⟨true, entry s.ka j⟩ := classify_upAt h.valid _
  rw [henc, hdec]
  exact ⟨h.menc_entry hc, h.mdec_entry hc⟩

end

/-! ### The source's scenario (R165(d), 95_test_vectors.md V12) -/

theorem kabuild_sourceKey : kabuild sourceKey = sourceAlphabet :=
  (kabuildKeepsFirstOccurrences sourceKey).1.trans (by decide)

/-- Both columns of V12 follow the alphabet, eight places on and eight places back. -/
theorem sourceTables_follow_sourceAlphabet :
    (∀ j, sourceEnc.getD (entry (tableOf sourceAlphabet) j).toNat 0 = entry (tableOf sourceAlphabet) (j + 8)) ∧
    ∀ j, sourceDec.getD (entry (tableOf sourceAlphabet) j).toNat 0 = entry (tableOf sourceAlphabet) (j - 8) := by
  decide

/-! ### The statement -/

theorem klen_ne_zero_of_loadedKey {s : State} (h : loadedKey s ≠ []) : s.klen ≠ 0 := fun hk =>
  h (by simp [loadedKey, hk])

/-- Where the invariants hold no command enters the fault state (10_state.md R37(f)). -/
theorem exec_not_faulted {s t : State} {i : Instr} (hinv : EngineInv s) (h : exec i s = .next t) : t.flt = false := by
  obtain ⟨u, -, hu, -, -, hok⟩ := fatalErrorIsUnreachable i s hinv
  obtain rfl : t = u := Host.Outcome.next.inj (h.symm.trans hu)
  exact hok

/-- Settles O40: (a) by `exec_not_faulted`, (b) and (d) from an engine ready to substitute, (c) by the first case of the
cipher, (e) by `monoKeepsState`. -/
theorem mdecUndoesMenc : Obligations.MdecUndoesMenc := by
  refine ⟨⟨kabuild_perm, fun s t ch hinv h => ?_⟩, ⟨fun s hinv hg hk hv => ?_, fun s k hf hg hk => ?_⟩,
    fun s hf hk ch => ?_, fun s hf hg hkey hshift => ?_, monoKeepsState⟩
  · exact h.elim (exec_not_faulted hinv) (exec_not_faulted hinv)
  · exact (hinv.monoReady hg hk hv).roundTrips
  · have hexec := exec_kabuild (s := { s with shift := k }) hf
    exact ⟨_, hexec, rfl, (monoReady_of_exec_kabuild hexec hf hg hk).roundTrips⟩
  · rw [exec_menc hf, exec_mdec hf]
    exact ⟨monoCipher_of_emptyKey _ hk, monoCipher_of_emptyKey _ hk⟩
  · have hexec := exec_kabuild hf
    rw [hkey, kabuild_sourceKey] at hexec
    have hready := monoReady_of_exec_kabuild hexec hf hg (klen_ne_zero_of_loadedKey (by simp [hkey, sourceKey]))
    obtain ⟨henc, hdec⟩ := sourceTables_follow_sourceAlphabet
    refine ⟨_, hexec, tableOf_toList rfl, hready.substitutes ?_ ?_, hready.roundTrips⟩
    · simpa [hshift] using henc
    · simpa [hshift] using hdec

end Sys2Proof.Machine
end

section
/-! PROOFS. The Trithemius table (43_poly.md R181, R182): what `tbuild` gives, and TBUILD. -/

namespace Sys2Proof.Machine

/-! ### The placed symbols (R181) -/

/-- What the first loop of R181 leaves: one value per key symbol, while there is room. -/
def placed (K : List KeyEntry) : List RingVal := K.foldl placeSymbol []

theorem tbuild_eq_fill (K : List KeyEntry) : tbuild K = fillInRingOrder (placed K) := rfl

theorem placed_concat (K : List KeyEntry) (e : KeyEntry) : placed (K ++ [e]) = placeSymbol (placed K) e :=
  List.foldl_concat ..

/-- The loop stops placing at 32 values. -/
theorem placed_length (K : List KeyEntry) : (placed K).length = min K.length 32 := by
  induction K using List.reverseRecOn with
  | nil => rfl
  | append_singleton K e ih =>
    rw [placed_concat, placeSymbol, Params.ringOrder]
    split <;> simp <;> omega

theorem placed_concat_of_room {K : List KeyEntry} (h : K.length < 32) (e : KeyEntry) :
    placed (K ++ [e]) = placed K ++ [probe (placed K) e.v] := by
  rw [placed_concat, placeSymbol, if_pos (by rw [placed_length, Params.ringOrder]; omega)]

theorem placed_concat_of_full {K : List KeyEntry} (h : 32 ≤ K.length) (e : KeyEntry) : placed (K ++ [e]) = placed K := by
  rw [placed_concat, placeSymbol, if_neg (by rw [placed_length, Params.ringOrder]; omega)]

/-- The value placed for a symbol depends on it and on the symbols before it alone. -/
theorem placed_take (K : List KeyEntry) {j : Nat} (hj : j ≤ 32) : placed (K.take j) = (placed K).take j := by
  induction K using List.reverseRecOn with
  | nil => simp [placed]
  | append_singleton K e ih =>
    by_cases hroom : j ≤ K.length
    · have hplaced : j ≤ (placed K).length := by rw [placed_length]; omega
      rw [List.take_append_of_le_length hroom, ih]
      by_cases hfull : K.length < 32
      · rw [placed_concat_of_room hfull, List.take_append_of_le_length hplaced]
      · rw [placed_concat_of_full (by omega)]
    · have hplaced : (placed (K ++ [e])).length ≤ j := by rw [placed_length]; simp; omega
      rw [List.take_of_length_le (by simp; omega), List.take_of_length_le hplaced]

/-- The `j`-th placed value is where the probe from the `j`-th key symbol ends. -/
theorem placed_getD {K : List KeyEntry} (hK : K.length ≤ 32) {j : Nat} (h : j < K.length) :
    (placed K).getD j 0 = probe ((placed K).take j) K[j].v := by
  have hupto : (placed K).take (j + 1) = (placed K).take j ++ [probe ((placed K).take j) K[j].v] := by
    rw [← placed_take K (by omega), ← placed_take K (by omega), List.take_succ_eq_append_getElem h,
      placed_concat_of_room (by simp; omega)]
  have hlen : j < (placed K).length := by rw [placed_length]; omega
  rw [List.take_succ_eq_append_getElem hlen] at hupto
  simpa [hlen] using List.append_cancel_left hupto

/-- Settles O42: by `placed_getD` each value is the end of a probe, and `probe_spec` says where a probe ends. -/
theorem tbuildPlacesTheFirstFreeSuccessor : Obligations.TbuildPlacesTheFirstFreeSuccessor := by
  refine ⟨fun K hK => ⟨placed K, by rw [placed_length]; omega, fillInRingOrder_eq _, fun j h => ?_⟩, fun K => ?_⟩
  · have hroom : ((placed K).take j).length < 32 := by simp; omega
    obtain ⟨hfree, n, -, hn, htaken⟩ := probe_spec hroom K[j].v
    rw [placed_getD hK h]
    exact ⟨n, hn, hfree, htaken⟩
  · have hlen : (placed K).length ≤ 32 := by rw [placed_length]; omega
    rw [tbuild_eq_fill, tbuild_eq_fill, placed_take K (Nat.le_refl 32), List.take_of_length_le hlen]

/-! ### Distinct members (R182) -/

theorem probe_of_free {taken : List RingVal} {v : RingVal} (h : v ∉ taken) : probe taken v = v :=
  if_neg h

theorem length_le_of_nodup {l : List RingVal} (h : l.Nodup) : l.length ≤ 32 := by
  have := (h.subperm fun v _ => mem_ringValues v).length_le
  rwa [ringValues_length] at this

/-- Distinct symbols are never taken when their turn comes, so each is placed itself. -/
theorem placed_of_distinct {K : List KeyEntry} (h : (K.map KeyEntry.v).Nodup) : placed K = K.map KeyEntry.v := by
  induction K using List.reverseRecOn with
  | nil => rfl
  | append_singleton K e ih =>
    have hroom := length_le_of_nodup h
    rw [List.map_append, List.map_singleton] at h ⊢
    obtain ⟨hK, -, hdisj⟩ := List.nodup_append.1 h
    have hfree : e.v ∉ K.map KeyEntry.v := fun hmem => hdisj _ hmem _ List.mem_cons_self rfl
    rw [placed_concat_of_room (by simp at hroom; omega), ih hK, probe_of_free hfree]

theorem memberValues_of_members {K : List KeyEntry} (h : ∀ e ∈ K, e.m = true) : memberValues K = K.map KeyEntry.v := by
  rw [memberValues, List.filter_eq_self.2 h]

/-- Settles O41: with distinct members the first loops of `tbuild` and of `kabuild` both keep the key as it is. -/
theorem tbuildGivesAPermutation : Obligations.TbuildGivesAPermutation := by
  refine fun K hmembers => ⟨tbuild_perm K, fun hdistinct => ?_⟩
  have hkabuild : K.foldl keepMember [] = memberValues K := by
    rw [foldl_keepMember, foldl_appendNew hdistinct]
    simp
  rw [tbuild_eq_fill, kabuild, hkabuild]
  rw [memberValues_of_members hmembers] at hdistinct ⊢
  rw [placed_of_distinct hdistinct]

/-! ### TBUILD (R182) -/

/-- The table TBUILD stores holds the 32 values of `tbuild`, none cut off and none filled in. -/
theorem tableOf_tbuild_toList (K : List KeyEntry) : (tableOf (tbuild K)).toList = tbuild K :=
  tableOf_toList ((tbuild_perm K).length_eq.trans ringValues_length)

section
variable {s : State} (hf : s.flt = false)
include hf

theorem exec_tbuild_of_members (h : ∀ e ∈ loadedKey s, e.m = true) :
    exec .tbuild s = .next (answer 0 0
      { s with tt := tableOf (tbuild (loadedKey s)), kidx := 0, bias := s.klen.setWidth 5, ttv := true }) :=
  (unlessFaulted_of_ok hf _).trans (if_neg (by simpa using h))

theorem exec_tbuild_of_nonmember (h : ∃ e ∈ loadedKey s, e.m = false) :
    exec .tbuild s = .next (answer 8 0 (recordError .keysym s)) :=
  (unlessFaulted_of_ok hf _).trans (if_pos (by simpa using h))

end

/-- The bias of a new table is the key length as a ring value. -/
theorem klen_setWidth (n : BitVec 6) : n.setWidth 5 = BitVec.ofNat 5 (n.toNat % 32) :=
  BitVec.eq_of_toNat_eq (by simp)

/-- Settles O43, by whether every loaded symbol is a member. -/
theorem tbuildBuildsTheTable : Obligations.TbuildBuildsTheTable := fun s hf =>
  ⟨fun h => ⟨tableOf (tbuild (loadedKey s)), tableOf_tbuild_toList _,
    klen_setWidth s.klen ▸ exec_tbuild_of_members hf h⟩, exec_tbuild_of_nonmember hf⟩

end Sys2Proof.Machine
end

section
/-! PROOFS. The table shift (43_poly.md R183, R189(b)). -/

namespace Sys2Proof.Machine

/-! ### The head and the tail -/

theorem tableHead_length (T : Table) (bias : RingVal) : (tableHead T bias).length = bias.toNat := by
  have := bias.isLt
  simp [tableHead]
  omega

theorem tableTail_length (T : Table) (bias : RingVal) : (tableTail T bias).length = 32 - bias.toNat := by
  simp [tableTail]

theorem tableTail_getElem {T : Table} {bias : RingVal} {k : Nat} (h : k < (tableTail T bias).length) :
    (tableTail T bias)[k] = T.toList.getD (bias.toNat + k) 0 := by
  have hlt : bias.toNat + k < 32 := by rw [tableTail_length] at h; omega
  simp [tableTail, hlt]

/-- Past the head the probe finds a free value, since the head has at most 31 entries (R183, R341). -/
theorem probe_head_spec (T : Table) (v : RingVal) (bias : RingVal) :
    probe (tableHead T bias) v ∉ tableHead T bias ∧ ∃ n : Nat, n ≤ bias.toNat ∧
      probe (tableHead T bias) v = v + BitVec.ofNat 5 n ∧ ∀ k : Nat, k < n → v + BitVec.ofNat 5 k ∈ tableHead T bias := by
  have hhead := tableHead_length T bias
  have hspec := probe_spec (taken := tableHead T bias) (hhead ▸ bias.isLt) v
  rwa [hhead] at hspec

/-! ### The two searches for a pivot -/

section
variable {T : Table} {bias : RingVal} {t : KeyEntry} {p : Nat}

/-- A search of the tail answers the least place from `bias` on. -/
theorem firstInTail_eq_some_iff {f : RingVal → Bool} :
    firstInTail T bias f = some p ↔ IsFirstFrom T bias.toNat (fun x => f x = true) p := by
  rw [firstInTail, Option.map_eq_some_iff]
  simp only [List.findIdx?_eq_some_iff_getElem, tableTail_getElem, tableTail_length, IsFirstFrom]
  constructor
  · rintro ⟨k, ⟨hk, hf, hmin⟩, rfl⟩
    refine ⟨by omega, by omega, hf, fun j hlo hj => ?_⟩
    simpa [Nat.add_sub_cancel' hlo] using hmin (j - bias.toNat) (by omega)
  · rintro ⟨hlo, hp, hf, hmin⟩
    refine ⟨p - bias.toNat, ⟨by omega, ?_, fun j hj => ?_⟩, by omega⟩
    · rwa [Nat.add_sub_cancel' hlo]
    · exact hmin _ (by omega) (by omega)

/-- The first search looks for a member target's first ring successor outside the head. -/
theorem targetPivot_eq_some_iff :
    targetPivot T t bias = some p ↔
      IsFirstFrom T bias.toNat (fun x => t.m = true ∧ x = probe (tableHead T bias) t.v) p := by
  rw [targetPivot]
  split
  next hm => simp [firstInTail_eq_some_iff, hm]
  next hm => simp [IsFirstFrom, hm]

theorem fallbackPivot_eq_some_iff :
    fallbackPivot T bias = some p ↔ IsFirstFrom T bias.toNat (fun x => x ∉ tableHead T bias) p := by
  simp [fallbackPivot, firstInTail_eq_some_iff]

theorem pivotPosition_eq_some_iff :
    pivotPosition T t bias = some p ↔
      targetPivot T t bias = some p ∨ (targetPivot T t bias = none ∧ fallbackPivot T bias = some p) := by
  rw [pivotPosition]
  split
  next h => simp [h]
  next h => simp [h]

theorem pivotPosition_eq_none_iff :
    pivotPosition T t bias = none ↔ targetPivot T t bias = none ∧ fallbackPivot T bias = none := by
  rw [pivotPosition]
  split
  next h => simp [h]
  next h => simp [h]

theorem shiftTable_eq_some_iff {T' : Table} :
    shiftTable T t bias = some (T', p) ↔ pivotPosition T t bias = some p ∧ moveToFront T p = T' := by
  simp [shiftTable, ← and_assoc]

/-- Whichever search finds it, the pivot lies in the tail. -/
theorem pivotPosition_bounds (h : pivotPosition T t bias = some p) : bias.toNat ≤ p ∧ p < 32 := by
  obtain h | ⟨-, h⟩ := pivotPosition_eq_some_iff.1 h
  · obtain ⟨hlo, hp, -, -⟩ := targetPivot_eq_some_iff.1 h
    exact ⟨hlo, hp⟩
  · obtain ⟨hlo, hp, -, -⟩ := fallbackPivot_eq_some_iff.1 h
    exact ⟨hlo, hp⟩

end

/-! ### Moving the pivot -/

theorem moveToFront_toList (T : Table) {p : Nat} (hp : p < 32) :
    (moveToFront T p).toList = T.toList.getD p 0 :: T.toList.eraseIdx p := by
  have hlen : p < T.toList.length := by simpa using hp
  have hpivot : (T.toList.drop p).take 1 = [T.toList.getD p 0] := by
    rw [List.drop_eq_getElem_cons hlen, List.getD_eq_getElem _ _ hlen]
    rfl
  have hlist : (T.toList.drop p).take 1 ++ T.toList.take p ++ T.toList.drop (p + 1) =
      T.toList.getD p 0 :: T.toList.eraseIdx p := by
    rw [hpivot, List.eraseIdx_eq_take_drop_succ]
    rfl
  rw [moveToFront, hlist, tableOf_toList]
  simp [List.length_eraseIdx, hp]

/-- Settles O44: each search answers the first place of its kind, so the shift has the pivot of the first search that has
one, and no result when neither has one. -/
theorem tableShiftFollowsTheRule : Obligations.TableShiftFollowsTheRule := by
  intro T t bias
  obtain ⟨hfree, n, hn, hprobe, htaken⟩ := probe_head_spec T t.v bias
  have htarget (q : Nat) : targetPivot T t bias = some q ↔
      IsFirstFrom T bias.toNat (fun x => t.m = true ∧ x = t.v + BitVec.ofNat 5 n) q := by
    rw [targetPivot_eq_some_iff, hprobe]
  have hnotarget (h : ∀ q, ¬ IsFirstFrom T bias.toNat (fun x => t.m = true ∧ x = t.v + BitVec.ofNat 5 n) q) :
      targetPivot T t bias = none :=
    Option.eq_none_iff_forall_ne_some.2 fun q hq => h q ((htarget q).1 hq)
  refine ⟨n, hn, hprobe ▸ hfree, htaken, fun p hp => ?_, fun hno hnofallback => ?_⟩
  · have hpivot : pivotPosition T t bias = some p :=
      pivotPosition_eq_some_iff.2 (hp.imp (htarget p).2 (And.imp hnotarget fallbackPivot_eq_some_iff.2))
    exact ⟨_, shiftTable_eq_some_iff.2 ⟨hpivot, rfl⟩, moveToFront_toList T (pivotPosition_bounds hpivot).2⟩
  · have hfallback : fallbackPivot T bias = none :=
      Option.eq_none_iff_forall_ne_some.2 fun q hq => hnofallback q (fallbackPivot_eq_some_iff.1 hq)
    rw [shiftTable, pivotPosition_eq_none_iff.2 ⟨hnotarget hno, hfallback⟩]
    rfl

/-! ### On a permutation -/

/-- In a permutation no entry of the tail stands in the head too. -/
theorem IsPermutation.not_mem_head {T : Table} (h : IsPermutation T) {bias : RingVal} {j : Nat} (hlo : bias.toNat ≤ j)
    (hj : j < 32) : T.toList.getD j 0 ∉ tableHead T bias := by
  intro hmem
  obtain ⟨k, hk, he⟩ := List.getElem_of_mem hmem
  rw [tableHead_length] at hk
  have hlen : j < T.toList.length := by simpa using hj
  rw [List.getD_eq_getElem _ _ hlen] at he
  simp only [tableHead, List.getElem_take] at he
  have := (IsPermutation_nodup h).getElem_inj_iff.1 he
  omega

/-- So the fallback is the first entry of the tail. -/
theorem IsPermutation.fallbackPivot_eq {T : Table} (h : IsPermutation T) (bias : RingVal) :
    fallbackPivot T bias = some bias.toNat :=
  fallbackPivot_eq_some_iff.2
    ⟨Nat.le_refl _, bias.isLt, h.not_mem_head (Nat.le_refl _) bias.isLt, fun j hlo hj => absurd hj (by omega)⟩

/-- A ring value outside the head stands in the tail, so a member target has a pivot of its own. -/
theorem IsPermutation.targetPivot_ne_none {T : Table} (h : IsPermutation T) {t : KeyEntry} (hm : t.m = true)
    (bias : RingVal) : targetPivot T t bias ≠ none := by
  have hfree := (probe_head_spec T t.v bias).1
  have htail : probe (tableHead T bias) t.v ∈ tableTail T bias := by
    have hmem : probe (tableHead T bias) t.v ∈ tableHead T bias ++ tableTail T bias := by
      rw [tableHead, tableTail, List.take_append_drop]
      exact IsPermutation_mem h _
    exact (List.mem_append.1 hmem).resolve_left hfree
  rw [targetPivot, if_pos hm, firstInTail, ne_eq, Option.map_eq_none_iff, List.findIdx?_eq_none_iff]
  exact fun hall => by simpa using hall _ htail

theorem pivotPosition_of_nonmember (T : Table) {t : KeyEntry} (hm : t.m = false) (bias : RingVal) :
    pivotPosition T t bias = fallbackPivot T bias := by
  simp [pivotPosition, targetPivot, hm]

/-- Settles O45: a non-member's pivot is the fallback, the first entry of the tail; a member's is its own, which the first
search finds. -/
theorem shiftMovesThePivotToTheFront : Obligations.ShiftMovesThePivotToTheFront := by
  intro T t bias hT
  obtain ⟨⟨T', p⟩, hs⟩ := Option.ne_none_iff_exists'.1 (shiftTable_ne_none hT t bias)
  obtain ⟨hpivot, rfl⟩ := shiftTable_eq_some_iff.1 hs
  obtain ⟨hlo, hp⟩ := pivotPosition_bounds hpivot
  refine ⟨_, p, hs, hlo, hp, moveToFront_toList T hp, moveToFront_isPermutation hT p, fun hm => ?_, fun hm => ?_⟩
  · rw [pivotPosition_of_nonmember T hm, hT.fallbackPivot_eq] at hpivot
    exact (Option.some.inj hpivot).symm
  · obtain ⟨-, n, hn, hprobe, htaken⟩ := probe_head_spec T t.v bias
    have htarget : targetPivot T t bias = some p :=
      (pivotPosition_eq_some_iff.1 hpivot).resolve_right fun hnone => hT.targetPivot_ne_none hm bias hnone.1
    obtain ⟨-, -, ⟨-, hvalue⟩, -⟩ := targetPivot_eq_some_iff.1 htarget
    exact ⟨n, hn, hvalue.trans hprobe, htaken⟩

end Sys2Proof.Machine
end

section
/-! PROOFS. TSHIFT and the polyalphabetic cipher (43_poly.md R185 to R188): TSHIFT, PENC and PDEC. -/

namespace Sys2Proof.Machine

/-! ### TSHIFT (R185) -/

theorem entry_ofNat (T : Table) {p : Nat} (hp : p < 32) : entry T (BitVec.ofNat 5 p) = T.toList.getD p 0 := by
  simp [entry, Nat.mod_eq_of_lt hp, hp]

theorem shiftTable_pivot_lt {T T' : Table} {t : KeyEntry} {bias : RingVal} {p : Nat}
    (h : shiftTable T t bias = some (T', p)) : p < 32 :=
  (pivotPosition_bounds (shiftTable_eq_some_iff.1 h).1).2

section
variable {s : State} {target : CharWord} {bias : RingVal} (hf : s.flt = false)
include hf

theorem exec_tshift_of_stale (hv : s.ttv = false) :
    exec (.tshift target bias) s = .next (answer 5 0 (recordError .nott s)) :=
  (unlessFaulted_of_ok hf _).trans (by simp [hv, errCode])

theorem exec_tshift_of_pivot {T : Table} {p : Nat} (hv : s.ttv = true)
    (hT : shiftTable s.tt (classify s.glyphs target) bias = some (T, p)) :
    exec (.tshift target bias) s = .next (answer 0 (glyph s.glyphs (s.tt.toList.getD p 0)) { s with tt := T }) := by
  rw [← entry_ofNat s.tt (shiftTable_pivot_lt hT)]
  exact (unlessFaulted_of_ok hf _).trans (by simp [hv, hT])

theorem exec_tshift_of_noPivot (hv : s.ttv = true) (hT : shiftTable s.tt (classify s.glyphs target) bias = none) :
    exec (.tshift target bias) s = .next (answer 15 0 (recordError .fatal (enterFaultState s))) :=
  (unlessFaulted_of_ok hf _).trans (by simp [hv, hT])

end

/-- Settles O46, by the valid bit and by what the shift gives. -/
theorem tshiftAppliesOneShift : Obligations.TshiftAppliesOneShift :=
  ⟨fun a b => congrArg (some ∘ Instr.tshift a) (v5_eq_ofNat_mod b), fun _ _ _ hf =>
    ⟨exec_tshift_of_stale hf, fun _ _ => exec_tshift_of_pivot hf, exec_tshift_of_noPivot hf⟩⟩

/-! ### The cases of the cipher (R186 to R188) -/

section
variable {s : State} {ch : CharWord} (move : RingVal → RingVal → RingVal)

theorem polyCipher_of_emptyKey (hk : s.klen = 0) : polyCipher move ch s = .next (answer 0 ch s) :=
  if_pos hk

theorem polyCipher_of_stale (hk : s.klen ≠ 0) (hv : s.ttv = false) :
    polyCipher move ch s = .next (answer 5 0 (recordError .nott s)) :=
  (if_neg hk).trans (by simp [hv, errCode])

theorem polyCipher_of_nonmember (hk : s.klen ≠ 0) (hv : s.ttv = true) (hm : (classify s.glyphs ch).m = false) :
    polyCipher move ch s = .next (answer 0 ch (advance s)) :=
  (if_neg hk).trans (by simp [hv, hm])

theorem polyCipher_of_index (hk : s.klen ≠ 0) (hv : s.ttv = true) (hm : (classify s.glyphs ch).m = true) {pos : RingVal}
    (hpos : indexOf s.tt (val s.glyphs ch) = some pos) {T : Table} {p : Nat}
    (hT : shiftTable s.tt (entry s.key s.kidx) s.bias = some (T, p)) :
    polyCipher move ch s =
      .next (answer 0 (glyph s.glyphs (entry s.tt (move pos s.shift))) (advance { s with tt := T })) :=
  (if_neg hk).trans (by simp [hv, hm, hpos, hT])

/-- A member without an index and a table without a pivot are fatal alike. -/
theorem polyCipher_of_noResult (hk : s.klen ≠ 0) (hv : s.ttv = true) (hm : (classify s.glyphs ch).m = true)
    (hnone : indexOf s.tt (val s.glyphs ch) = none ∨ shiftTable s.tt (entry s.key s.kidx) s.bias = none) :
    polyCipher move ch s = .next (answer 15 0 (recordError .fatal (enterFaultState s))) := by
  refine (if_neg hk).trans ?_
  cases hpos : indexOf s.tt (val s.glyphs ch) with
  | none => simp [hv, hm]
  | some pos =>
    have hT : shiftTable s.tt (entry s.key s.kidx) s.bias = none := hnone.resolve_left (by simp [hpos])
    simp [hv, hm, hT]

end

theorem exec_penc {s : State} (hf : s.flt = false) (ch : CharWord) :
    exec (.penc ch) s = polyCipher (fun p k => p + k) ch s :=
  unlessFaulted_of_ok hf _

theorem exec_pdec {s : State} (hf : s.flt = false) (ch : CharWord) :
    exec (.pdec ch) s = polyCipher (fun p k => p - k) ch s :=
  unlessFaulted_of_ok hf _

/-- Settles O47: the cases of the cipher, once for the index moved on and once for the index moved back. -/
theorem pencAndPdecTakeOneStep : Obligations.PencAndPdecTakeOneStep := by
  intro ch s hf
  rw [exec_penc hf, exec_pdec hf]
  refine ⟨fun hk => ?_, fun hk hv => ?_, fun hk hv hm => ?_, fun pos T p hk hv hm hpos hT => ?_,
    fun hk hv hm hnone => ?_⟩
  · exact ⟨polyCipher_of_emptyKey _ hk, polyCipher_of_emptyKey _ hk⟩
  · exact ⟨polyCipher_of_stale _ hk hv, polyCipher_of_stale _ hk hv⟩
  · exact ⟨polyCipher_of_nonmember _ hk hv hm, polyCipher_of_nonmember _ hk hv hm⟩
  · have hindex : indexOf s.tt (val s.glyphs ch) = some pos := indexOf_of_least hpos.1 hpos.2
    exact ⟨polyCipher_of_index _ hk hv hm hindex hT, polyCipher_of_index _ hk hv hm hindex hT⟩
  · have hnoResult : indexOf s.tt (val s.glyphs ch) = none ∨ shiftTable s.tt (entry s.key s.kidx) s.bias = none :=
      hnone.imp_left indexOf_of_absent
    exact ⟨polyCipher_of_noResult _ hk hv hm hnoResult, polyCipher_of_noResult _ hk hv hm hnoResult⟩

end Sys2Proof.Machine
end

section
/-! PROOFS. The S-box and the block buffer (44_sblock.md R210 to R216): SBX, SBXI, BCLR, BPUSH and BPOP. -/

namespace Sys2Proof.Machine

/-! ### The S-box and its inverse (R210, R211) -/

/-- R211: "7 * 23 = 161 = 5 * 32 + 1", so the two multipliers cancel. -/
theorem sboxMul_mul_sboxMulInv : Params.sboxMul * Params.sboxMulInv = 1#5 := by decide

@[simp] theorem isbox_sbox (v : RingVal) : isbox (sbox v) = v := by
  rw [isbox, sbox, BitVec.add_sub_cancel, ← BitVec.mul_assoc, BitVec.mul_comm Params.sboxMulInv,
    sboxMul_mul_sboxMulInv, BitVec.one_mul]

@[simp] theorem sbox_isbox (w : RingVal) : sbox (isbox w) = w := by
  rw [sbox, isbox, ← BitVec.mul_assoc, sboxMul_mul_sboxMulInv, BitVec.one_mul, BitVec.sub_add_cancel]

theorem sbox_eq_ofNat (v : RingVal) : sbox v = BitVec.ofNat 5 ((v.toNat * 7 + 3) % 32) := by
  rw [ringVal_ofNat_mod, BitVec.ofNat_add, BitVec.ofNat_mul, BitVec.ofNat_toNat, BitVec.setWidth_eq, BitVec.mul_comm]
  rfl

theorem isbox_eq_ofInt (w : RingVal) : isbox w = BitVec.ofInt 5 ((23 * ((w.toNat : Int) - 3)) % 32) := by
  have hsub : BitVec.ofInt 5 ((w.toNat : Int) - 3) = w - 3 := ringVal_ofInt_sub w 3
  rw [ringVal_ofInt_emod, BitVec.ofInt_mul, hsub]
  rfl

/-! ### BPUSH and BPOP on the buffer (R215, R216) -/

/-- A block that is not full takes the word at `BCNT`. -/
theorem pushBlock_blk_of_room (ch : CharWord) {s : State} (hroom : s.bcnt.toNat < 4) :
    (pushBlock ch s).blk = s.blk.set s.bcnt.toNat ch hroom := by
  apply Vector.toList_inj.1
  rw [pushBlock_blk, Vector.toList_setIfInBounds, Vector.toList_set]

/-- What BPOP leaves in the places that count is the block without its first word. -/
theorem shiftDown_contents {s : State} (hheld : s.bcnt ≠ 0) (hle : s.bcnt.toNat ≤ 4) :
    (shiftDown s.bcnt.toNat s.blk).toList.take (s.bcnt.toNat - 1) = (s.blk.toList.take s.bcnt.toNat).drop 1 := by
  have hcount : (popBlock s).bcnt.toNat = s.bcnt.toNat - 1 := by
    rw [popBlock_bcnt]
    bv_omega
  rw [← popBlock_blk, ← hcount, popBlock_contents hheld hle, List.drop_one]

/-! ### What the commands do outside the fault state -/

section
variable {s : State} (hf : s.flt = false)
include hf

theorem exec_sbx (v : RingVal) : exec (.sbx v) s = .next (answer 0 ((sbox v).setWidth 16) s) :=
  unlessFaulted_of_ok hf _

theorem exec_sbxi (w : RingVal) : exec (.sbxi w) s = .next (answer 0 ((isbox w).setWidth 16) s) :=
  unlessFaulted_of_ok hf _

theorem exec_bclr : exec .bclr s = .next (answer 0 0 { s with bcnt := 0 }) :=
  unlessFaulted_of_ok hf _

theorem exec_bpush_of_room (ch : CharWord) (hroom : s.bcnt.toNat < 4) :
    exec (.bpush ch) s = .next (answer 0 0 (pushBlock ch s)) := by
  have hnotFull : blockFull s = false := blockFull_eq_false.2 hroom
  exact (unlessFaulted_of_ok hf _).trans (by simp [hnotFull])

theorem exec_bpush_of_full (ch : CharWord) (hfull : 4 ≤ s.bcnt.toNat) :
    exec (.bpush ch) s = .next (answer 3 0 (recordError .blklen s)) := by
  have hblockFull : blockFull s = true := decide_eq_true hfull
  exact (unlessFaulted_of_ok hf _).trans (by simp [hblockFull, errCode])

theorem exec_bpop_of_held (hheld : s.bcnt ≠ 0) : exec .bpop s = .next (answer 0 s.blk[0] (popBlock s)) :=
  (unlessFaulted_of_ok hf _).trans (if_neg hheld)

theorem exec_bpop_of_empty (hempty : s.bcnt = 0) : exec .bpop s = .next (answer 6 0 (recordError .empty s)) :=
  (unlessFaulted_of_ok hf _).trans (if_pos hempty)

end

/-! ### The statements -/

/-- Settles O48: the tables by evaluation, the closed forms and the inverses by ring arithmetic. -/
theorem sboxAndItsInverse : Obligations.SboxAndItsInverse := by
  refine ⟨by decide, by decide, fun v => ⟨sbox_eq_ofNat v, isbox_sbox v, sbox_isbox v, isbox_eq_ofInt v⟩,
    fun a _ => ⟨congrArg (some ∘ Instr.sbx) (v5_eq_ofNat_mod a), congrArg (some ∘ Instr.sbxi) (v5_eq_ofNat_mod a)⟩,
    fun v s hf => ?_⟩
  rw [BitVec.ofNat_toNat, BitVec.ofNat_toNat]
  exact ⟨exec_sbx hf v, exec_sbxi hf v⟩

/-- Settles O49, by the two ends of BPUSH, with room in the block and with none, and of BPOP, with a word held and with
none. -/
theorem blockBufferIsAQueue : Obligations.BlockBufferIsAQueue := by
  refine ⟨fun s hf => exec_bclr hf, fun ch s hroom hf => ?_, fun ch s hf hfull => ?_, fun s hf hpos hle => ?_,
    fun s hf hempty => exec_bpop_of_empty hf hempty⟩
  · rw [exec_bpush_of_room hf ch hroom, ← pushBlock_blk_of_room]
    rfl
  · exact exec_bpush_of_full hf ch (by simp [hfull])
  · have hheld : s.bcnt ≠ 0 := fun hempty => by simp [hempty] at hpos
    exact ⟨_, exec_bpop_of_held hf hheld, shiftDown_contents hheld hle⟩

end Sys2Proof.Machine
end

section
/-! PROOFS. The block transforms (44_sblock.md R217 to R221): SBAPP, SBINV, SBKAPP and SBKINV. -/

namespace Sys2Proof.Machine

/-! ### One lane (R217 to R220) -/

theorem lane_of_member {g : GlyphTable} {ch : CharWord} (hm : (classify g ch).m = true)
    (f : RingVal → RingVal → RingVal) (i : RingVal) : lane g f i ch = glyph g (f i (val g ch)) :=
  if_pos hm

theorem lane_of_nonmember {g : GlyphTable} {ch : CharWord} (hm : (classify g ch).m = false)
    (f : RingVal → RingVal → RingVal) (i : RingVal) : lane g f i ch = ch :=
  if_neg (by simp [hm])

/-- The diffusion constant as the rule computes it (R217). -/
theorem ofNat_five_mul_mod (i : Nat) : BitVec.ofNat 5 (5 * i % 32) = diffusion (BitVec.ofNat 5 i) := by
  rw [ringVal_ofNat_mod, BitVec.ofNat_mul]
  rfl

/-- The wrapping sum of the forward lane is the exact one reduced modulo 32 (R217, R219). -/
theorem forwardLane_eq_ofNat {kv : RingVal → RingVal} {i : Nat} {k : RingVal} (hk : kv (BitVec.ofNat 5 i) = k)
    (v : RingVal) :
    forwardLane kv (BitVec.ofNat 5 i) v = BitVec.ofNat 5 (((sbox v).toNat + 5 * i % 32 + k.toNat) % 32) := by
  rw [ringVal_ofNat_mod, BitVec.ofNat_add, BitVec.ofNat_add, ofNat_five_mul_mod, forwardLane, hk]
  simp

/-- The wrapping difference of the backward lane is the exact one, negative or not, reduced modulo 32 (R218, R220). -/
theorem backwardLane_eq_ofInt {kv : RingVal → RingVal} {i : Nat} {k : RingVal} (hk : kv (BitVec.ofNat 5 i) = k)
    (v : RingVal) :
    backwardLane kv (BitVec.ofNat 5 i) v =
      isbox (BitVec.ofInt 5 (((v.toNat : Int) - k.toNat - 5 * i % 32) % 32)) := by
  have hdiffusion : BitVec.ofInt 5 (5 * (i : Int) % 32) = diffusion (BitVec.ofNat 5 i) := by
    rw [← ofNat_five_mul_mod, ← BitVec.ofInt_natCast]
    simp
  rw [ringVal_ofInt_emod, Int.sub_eq_add_neg, BitVec.ofInt_add, BitVec.ofInt_neg, ringVal_ofInt_sub, hdiffusion,
    ← BitVec.sub_eq_add_neg, backwardLane, hk]

/-- With 16 key entries loaded position `i` takes `KEY[i]` (R219). -/
theorem blockKeyValue_ofNat {s : State} (hk : s.klen = 16) {i : Nat} (hi : i < 4) :
    blockKeyValue s (BitVec.ofNat 5 i) = s.key[i].v := by
  have hindex : i % 16 % 32 = i := by omega
  simp [blockKeyValue, entry, hk, hindex]

/-! ### Undoing a transform (R221(a)) -/

theorem backwardLane_forwardLane (kv : RingVal → RingVal) (i v : RingVal) :
    backwardLane kv i (forwardLane kv i v) = v := by
  rw [backwardLane, forwardLane, BitVec.add_sub_cancel, BitVec.add_sub_cancel, isbox_sbox]

theorem forwardLane_backwardLane (kv : RingVal → RingVal) (i v : RingVal) :
    forwardLane kv i (backwardLane kv i v) = v := by
  rw [forwardLane, backwardLane, sbox_isbox, BitVec.sub_add_cancel, BitVec.sub_add_cancel]

section
variable {g : GlyphTable} (hg : g.Valid) {f f' : RingVal → RingVal → RingVal} (hundo : ∀ i v, f' i (f i v) = v)
include hg hundo

/-- A lane answers an upper-case glyph, which its inverse reads back by `classify_upAt`. -/
theorem lane_undo (i : RingVal) (ch : CharWord) : lane g f' i (lane g f i ch) = upperCase g ch := by
  cases hm : (classify g ch).m with
  | true =>
    have hmember (v : RingVal) : (classify g (glyph g v)).m = true := congrArg KeyEntry.m (classify_upAt hg v)
    rw [lane_of_member hm, lane_of_member (hmember _), val_glyph hg, hundo, upperCase, if_pos hm]
  | false => rw [lane_of_nonmember hm, lane_of_nonmember hm, upperCase, if_neg (by simp [hm])]

theorem mapBlock_undo (b : Block) : mapBlock g f' (mapBlock g f b) = b.map (upperCase g) := by
  ext1 i hi
  rw [mapBlock_getElem, mapBlock_getElem, lane_undo hg hundo, Vector.getElem_map]

end

/-! ### The ends of a transform -/

section
variable {s : State} (f : RingVal → RingVal → RingVal)

theorem transformBlock_of_full (hb : s.bcnt = 4) :
    transformBlock f s = .next (answer 0 0 { s with blk := mapBlock s.glyphs f s.blk }) :=
  if_pos (by simp [blockReady, hb, Params.blockLen])

theorem transformBlock_of_short (hb : s.bcnt ≠ 4) :
    transformBlock f s = .next (answer 3 0 (recordError .blklen s)) :=
  if_neg fun hready => hb (BitVec.eq_of_toNat_eq (of_decide_eq_true hready))

theorem keyedTransform_of_ready (hk : s.klen = 16) : keyedTransform f s = transformBlock f s :=
  if_pos (by simp [sbKeyReady, hk, Params.sbKeyLen])

theorem keyedTransform_of_keylen (hk : s.klen ≠ 16) :
    keyedTransform f s = .next (answer 2 0 (recordError .keylen s)) :=
  if_neg fun hready => hk (BitVec.eq_of_toNat_eq (of_decide_eq_true hready))

end

/-! ### What the commands do outside the fault state -/

section
variable {s : State} (hf : s.flt = false)
include hf

theorem exec_sbapp : exec .sbapp s = transformBlock (forwardLane noKeyValue) s :=
  unlessFaulted_of_ok hf _

theorem exec_sbinv : exec .sbinv s = transformBlock (backwardLane noKeyValue) s :=
  unlessFaulted_of_ok hf _

theorem exec_sbkapp : exec .sbkapp s = keyedTransform (forwardLane (blockKeyValue s)) s :=
  unlessFaulted_of_ok hf _

theorem exec_sbkinv : exec .sbkinv s = keyedTransform (backwardLane (blockKeyValue s)) s :=
  unlessFaulted_of_ok hf _

theorem exec_sbkapp_of_ready (hk : s.klen = 16) :
    exec .sbkapp s = transformBlock (forwardLane (blockKeyValue s)) s :=
  (exec_sbkapp hf).trans (keyedTransform_of_ready _ hk)

theorem exec_sbkinv_of_ready (hk : s.klen = 16) :
    exec .sbkinv s = transformBlock (backwardLane (blockKeyValue s)) s :=
  (exec_sbkinv hf).trans (keyedTransform_of_ready _ hk)

end

/-- A command that runs a transform on a full block, then one that runs its inverse on what the first leaves. -/
theorem exec_undo {s : State} {f f' : RingVal → RingVal → RingVal} {i i' : Instr} (hg : s.glyphs.Valid)
    (hb : s.bcnt = 4) (hundo : ∀ j v, f' j (f j v) = v) (hi : exec i s = transformBlock f s)
    (hi' : ∀ b : Block, exec i' (answer 0 0 { s with blk := b }) = transformBlock f' (answer 0 0 { s with blk := b })) :
    ∃ t u : State, exec i s = .next t ∧ exec i' t = .next u ∧ u.blk = s.blk.map (upperCase s.glyphs) :=
  ⟨_, _, hi.trans (transformBlock_of_full f hb), (hi' _).trans (transformBlock_of_full f' hb),
    mapBlock_undo hg hundo s.blk⟩

/-! ### The statements -/

/-- Settles O50: each place of the block by its lane, without a key value. -/
theorem sbappAndSbinvTransformTheBlock : Obligations.SbappAndSbinvTransformTheBlock := by
  intro s hf
  rw [exec_sbapp hf, exec_sbinv hf]
  refine ⟨fun hb => ⟨_, _, transformBlock_of_full _ hb, transformBlock_of_full _ hb, fun i hi => ?_⟩,
    fun hb => ⟨transformBlock_of_short _ hb, transformBlock_of_short _ hb⟩⟩
  rw [mapBlock_getElem, mapBlock_getElem]
  refine ⟨fun hm => ⟨lane_of_nonmember hm _ _, lane_of_nonmember hm _ _⟩, fun hm => ?_⟩
  have hkv : noKeyValue (BitVec.ofNat 5 i) = 0 := rfl
  rw [lane_of_member hm, lane_of_member hm, forwardLane_eq_ofNat hkv, backwardLane_eq_ofInt hkv]
  simp

/-- Settles O51: the key length, then the block length, then each place of the block by its lane. -/
theorem sbkappAndSbkinvTransformTheBlock : Obligations.SbkappAndSbkinvTransformTheBlock := by
  intro s hf
  refine ⟨fun hk hb => ?_, fun hk hb => ?_, fun hk => ?_⟩
  · rw [exec_sbkapp_of_ready hf hk, exec_sbkinv_of_ready hf hk]
    refine ⟨_, _, transformBlock_of_full _ hb, transformBlock_of_full _ hb, fun i hi => ?_⟩
    rw [mapBlock_getElem, mapBlock_getElem]
    refine ⟨fun hm => ⟨lane_of_nonmember hm _ _, lane_of_nonmember hm _ _⟩, fun hm => ?_⟩
    have hkv := blockKeyValue_ofNat hk hi
    rw [lane_of_member hm, lane_of_member hm, forwardLane_eq_ofNat hkv, backwardLane_eq_ofInt hkv]
    exact ⟨rfl, rfl⟩
  · rw [exec_sbkapp_of_ready hf hk, exec_sbkinv_of_ready hf hk]
    exact ⟨transformBlock_of_short _ hb, transformBlock_of_short _ hb⟩
  · rw [exec_sbkapp hf, exec_sbkinv hf]
    exact ⟨keyedTransform_of_keylen _ hk, keyedTransform_of_keylen _ hk⟩

/-- Settles O52: the inverse finds the engine as the first transform did but for the block, so with the same key values. -/
theorem blockTransformsAreInverse : Obligations.BlockTransformsAreInverse := by
  intro s hf hg hb
  refine ⟨?_, ?_, fun hk => ⟨?_, ?_⟩⟩
  · exact exec_undo hg hb (backwardLane_forwardLane _) (exec_sbapp hf) fun _ => exec_sbinv hf
  · exact exec_undo hg hb (forwardLane_backwardLane _) (exec_sbinv hf) fun _ => exec_sbapp hf
  · exact exec_undo hg hb (backwardLane_forwardLane _) (exec_sbkapp_of_ready hf hk) fun _ => exec_sbkinv_of_ready hf hk
  · exact exec_undo hg hb (forwardLane_backwardLane _) (exec_sbkinv_of_ready hf hk) fun _ => exec_sbkapp_of_ready hf hk

end Sys2Proof.Machine
end

section
/-! PROOFS. The system commands (45_system.md R240 to R243): NOP, SRESET, RDCR and CLRE. -/

namespace Sys2Proof.Machine

/-! ### The fault state (60_exceptions.md R289) -/

/-- A command ends without clearing `FLT`, however it ends, but for SRESET. -/
theorem exec_keeps_fault {i : Instr} {s t : State} (hi : i ≠ .sreset) (h : exec i s = .next t) (hf : s.flt = true) :
    t.flt = true := by
  have hends := h ▸ exec_ends hi s
  cases hends with
  | faulted => exact hf
  | raised => exact hf
  | fatal => rfl
  | responded _ hu => exact hu.flt.trans hf

/-! ### The fields of a control register (R34) -/

/-- Two fields side by side, as one number. -/
theorem toNat_append_eq_add {m n : Nat} (x : BitVec m) (y : BitVec n) :
    (x ++ y).toNat = x.toNat * 2 ^ n + y.toNat := by
  rw [BitVec.toNat_append, ← Nat.shiftLeft_add_eq_or_of_lt y.isLt, Nat.shiftLeft_eq]

theorem cr0_toNat (s : State) :
    (cr0 s).toNat = s.kav.toNat + 2 * s.ttv.toNat + 4 * s.flt.toNat + 8 * s.estk.toNat + 16 * s.elast.toNat := by
  simp only [cr0, toNat_append_eq_add, BitVec.toNat_ofBool, BitVec.toNat_ofNat]
  omega

theorem cr1_toNat (s : State) : (cr1 s).toNat = s.klen.toNat + 256 * s.shift.toNat := by
  simp only [cr1, toNat_append_eq_add, BitVec.toNat_ofNat]
  omega

theorem cr2_toNat (s : State) : (cr2 s).toNat = s.kidx.toNat + 256 * s.bias.toNat + 8192 * s.bcnt.toNat := by
  simp only [cr2, toNat_append_eq_add, BitVec.toNat_ofNat]
  omega

/-- The mask `0xF8` keeps the fields `ELAST` and `ESTK` of `CR0` and no other. -/
theorem cr0_and_errorBits {s : State} {b : Bool} {c : BitVec 4} (hestk : s.estk = b) (helast : s.elast = c) :
    cr0 s &&& 0xF8 = 0#8 ++ c ++ BitVec.ofBool b ++ 0#1 ++ 0#1 ++ 0#1 := by
  subst hestk helast
  calc cr0 s &&& 0xF8
      = (0#8 ++ s.elast ++ BitVec.ofBool s.estk ++ BitVec.ofBool s.flt ++ BitVec.ofBool s.ttv ++
          BitVec.ofBool s.kav) &&& (0#8 ++ BitVec.allOnes 4 ++ BitVec.allOnes 1 ++ 0#1 ++ 0#1 ++ 0#1) := rfl
    _ = 0#8 ++ s.elast ++ BitVec.ofBool s.estk ++ 0#1 ++ 0#1 ++ 0#1 := by
      simp only [BitVec.and_append, BitVec.and_allOnes, BitVec.and_zero]

/-- The operand form `n2` takes a field modulo 4 (30_encoding.md R94). -/
theorem n2_eq_ofNat (f : BitVec 16) : n2 f = BitVec.ofNat 2 f.toNat :=
  BitVec.eq_of_toNat_eq (by simp [n2])

/-! ### What the commands do -/

theorem exec_rdcr (n : BitVec 2) (s : State) : exec (.rdcr n) s = .next (answer 0 (controlRegister n s) s) := rfl

section
variable {s : State}

theorem exec_nop (hf : s.flt = false) : exec .nop s = .next (answer 0 0 s) := unlessFaulted_of_ok hf _

theorem exec_nop_of_faulted (hf : s.flt = true) : exec .nop s = .next (answer 15 0 s) :=
  unlessFaulted_of_faulted hf _

theorem exec_clre (hf : s.flt = false) : exec .clre s = .next (answer 0 0 (clearErrors s)) :=
  unlessFaulted_of_ok hf _

theorem exec_clre_of_faulted (hf : s.flt = true) : exec .clre s = .next (answer 15 0 s) :=
  unlessFaulted_of_faulted hf _

end

/-! ### The statements -/

/-- Settles O22, by the two sides of the fault-state check. -/
theorem nopDoesNothing : Obligations.NopDoesNothing :=
  ⟨rfl, fun _ hf => exec_nop hf, fun _ hf => exec_nop_of_faulted hf⟩

/-- Settles O23: the reset values and the registers that show them, and `exec_keeps_fault` for every other command. -/
theorem sresetResetsTheEngine : Obligations.SresetResetsTheEngine := by
  refine ⟨fun s => ?_, fun i s t hf h hclear => ?_⟩
  · have hvalues : HasResetValues (answer 0 0 (resetEngine s)) := { resetEngine_hasResetValues s with }
    exact ⟨_, exec_sreset s, hvalues, rfl, rfl, rfl, rfl, rfl, rfl, controlRegister_of_resetValues hvalues⟩
  · by_contra hi
    have hkept := exec_keeps_fault hi h hf
    simp [hclear] at hkept

/-- Settles O24: RDCR passes no fault-state check, and each register is the sum of its fields at their places. -/
theorem rdcrReadsTheControlRegisters : Obligations.RdcrReadsTheControlRegisters :=
  ⟨exec_rdcr, fun a _ => congrArg (some ∘ Instr.rdcr) (n2_eq_ofNat a),
    fun s => ⟨cr0_toNat s, cr1_toNat s, cr2_toNat s, rfl⟩⟩

/-- Settles O25; in the rule's example E_EMPTY stands in `CR0` with its code 6 and the sticky flag, until CLRE. -/
theorem clreAcknowledgesAnError : Obligations.ClreAcknowledgesAnError := by
  refine ⟨fun s hf => exec_clre hf, fun s hf => exec_clre_of_faulted hf, fun s hf hempty => ?_⟩
  exact ⟨_, _, exec_bpop_of_empty hf hempty, cr0_and_errorBits (b := true) (c := 6) rfl rfl, exec_clre hf,
    cr0_and_errorBits (b := false) (c := 0) rfl rfl⟩

end Sys2Proof.Machine
end

section
/-! PROOFS. The text procedures as runs (46_text_procedures.md R260): what a procedure gives when it succeeds, and how
the parts of a procedure compose. -/

namespace Sys2Proof.Machine

/-! ### What a procedure gives -/

/-- The procedure succeeds with the value `x` and leaves the engine in a state that satisfies `Q`. -/
def Gives {α : Type} (p : ProcResult α) (x : α) (Q : State → Prop) : Prop := ∃ t, p = (.ok x, t) ∧ Q t

section
variable {α β : Type} {x : α} {y : β} {Q R : State → Prop}

theorem gives_ok {t : State} (h : Q t) : Gives (.ok x, t) x Q := ⟨t, rfl, h⟩

theorem Gives.imp {p : ProcResult α} (h : Gives p x Q) (hQ : ∀ t, Q t → R t) : Gives p x R :=
  Exists.imp (fun t => And.imp_right (hQ t)) h

theorem Gives.andThen {p : ProcResult α} {k : α → State → ProcResult β} (h : Gives p x Q)
    (hk : ∀ t, Q t → Gives (k x t) y R) : Gives (andThen p k) y R := by
  obtain ⟨t, rfl, ht⟩ := h
  exact hk t ht

end

/-! ### Commands and sequences of commands -/

/-- A command that responds is a call that gives the response (R260). -/
theorem gives_call {i : Instr} {s u : State} {r : CharWord} {Q : State → Prop} (ha : s.awaitingReset = false)
    (he : exec i s = .next (answer 0 r u)) (hQ : Q (answer 0 r u)) (hr : u.responses = s.responses := by rfl) :
    Gives (call i s) r Q :=
  ⟨_, (call_of_exec (r := ⟨0, r⟩) ha (decode_encode i) he (by simp [hr])).trans (by simp), hQ⟩

/-- A command that takes an error stops the procedure with the error's code (R260). -/
theorem call_of_error {i : Instr} {s : State} (e : Err) (ha : s.awaitingReset = false)
    (he : exec i s = .next (answer (errCode e) 0 (recordError e s))) :
    call i s = (.error (.engine (errCode e)), answer (errCode e) 0 (recordError e s)) :=
  (call_of_exec (r := ⟨errCode e, 0⟩) ha (decode_encode i) he rfl).trans (by rw [if_neg (errCode_ne_zero e)])

section
variable {i : Instr} {is js : List Instr} {s : State} {y : CharWord} {ys zs : Text} {Q R : State → Prop}

theorem gives_callAll_cons (h : Gives (call i s) y Q) (hrest : ∀ t, Q t → Gives (callAll is t) ys R) :
    Gives (callAll (i :: is) s) (y :: ys) R :=
  h.andThen fun t ht => (hrest t ht).andThen fun _ hu => gives_ok hu

theorem gives_callAll_append (h : Gives (callAll is s) ys Q) (hrest : ∀ t, Q t → Gives (callAll js t) zs R) :
    Gives (callAll (is ++ js) s) (ys ++ zs) R := by
  rw [callAll_append]
  exact h.andThen fun t ht => (hrest t ht).andThen fun _ hu => gives_ok hu

theorem gives_callAll_singleton (h : Gives (call i s) y Q) : Gives (callAll [i] s) [y] Q :=
  gives_callAll_cons h fun _ ht => gives_ok ht

end

/-! ### One command per character -/

/-- The text a transducer answers: `out` gives the answer to each character, `next` the position it leaves. -/
def emit {σ : Type} (next : σ → CharWord → σ) (out : σ → CharWord → CharWord) : σ → Text → Text
  | _, [] => []
  | a, ch :: text => out a ch :: emit next out (next a ch) text

/-- Commands that answer, one after the other, as a transducer does. -/
theorem gives_emit {σ : Type} {P : σ → State → Prop} {mk : CharWord → Instr} {next : σ → CharWord → σ}
    {out : σ → CharWord → CharWord}
    (hstep : ∀ a ch s, P a s → Gives (call (mk ch) s) (out a ch) (P (next a ch))) (text : Text) {a : σ} {s : State}
    (h : P a s) : Gives (callAll (text.map mk) s) (emit next out a text) (P (text.foldl next a)) := by
  induction text generalizing a s with
  | nil => exact gives_ok h
  | cons ch text ih => exact gives_callAll_cons (hstep a ch s h) fun _ ht => ih ht

/-- Commands whose answers do not depend on the position. -/
theorem gives_map {α : Type} {P : State → Prop} {mk : α → Instr} {out : α → CharWord}
    (hstep : ∀ x s, P s → Gives (call (mk x) s) (out x) P) (xs : List α) {s : State} (h : P s) :
    Gives (callAll (xs.map mk) s) (xs.map out) P := by
  induction xs generalizing s with
  | nil => exact gives_ok h
  | cons x xs ih => exact gives_callAll_cons (hstep x s h) fun _ ht => ih ht

/-- Commands that append to a buffer with room for `room` entries: `P K` says that it holds the entries `K`. -/
theorem gives_push {α : Type} {P : List α → State → Prop} {mk : CharWord → Instr} {entryOf : CharWord → α} {room : Nat}
    (hstep : ∀ K ch s, K.length < room → P K s → Gives (call (mk ch) s) 0 (P (K ++ [entryOf ch]))) (text : Text)
    {K : List α} {s : State} (hroom : K.length + text.length ≤ room) (h : P K s) :
    Gives (callAll (text.map mk) s) (List.replicate text.length 0) (P (K ++ text.map entryOf)) := by
  induction text generalizing K s with
  | nil => simpa using gives_ok h
  | cons ch text ih =>
    rw [List.length_cons] at hroom
    refine gives_callAll_cons (hstep K ch s (by omega) h) fun t ht => ?_
    have hrest := ih (by simp; omega) ht
    rwa [List.append_assoc] at hrest

section
variable {σ : Type} {next : σ → CharWord → σ} {out out' : σ → CharWord → CharWord}

theorem emit_length (text : Text) (a : σ) : (emit next out a text).length = text.length := by
  induction text generalizing a with
  | nil => rfl
  | cons ch text ih => exact congrArg (· + 1) (ih _)

/-- A transducer answers the first characters of a text with the first characters of its answer. -/
theorem emit_take (text : Text) (n : Nat) (a : σ) : (emit next out a text).take n = emit next out a (text.take n) := by
  induction text generalizing n a with
  | nil => simp [emit]
  | cons ch text ih =>
    cases n with
    | zero => rfl
    | succ n => exact congrArg (out a ch :: ·) (ih n _)

theorem forall_mem_emit {p : CharWord → Prop} {text : Text} (h : ∀ a, ∀ ch ∈ text, p (out a ch)) (a : σ) :
    ∀ y ∈ emit next out a text, p y := by
  induction text generalizing a with
  | nil => simp [emit]
  | cons ch text ih =>
    exact List.forall_mem_cons.2 ⟨h a ch List.mem_cons_self, ih (fun a c hc => h a c (List.mem_cons_of_mem _ hc)) _⟩

section
variable (hnext : ∀ a ch, next a (out a ch) = next a ch)
include hnext

/-- Where the answer moves the position as the character did, the answered text moves it as the text did. -/
theorem foldl_emit (text : Text) (a : σ) : (emit next out a text).foldl next a = text.foldl next a := by
  induction text generalizing a with
  | nil => rfl
  | cons ch text ih => rw [emit, List.foldl_cons, hnext, ih, List.foldl_cons]

/-- The transducer whose answers undo those of another undoes its text. -/
theorem emit_undo {text : Text} (hout : ∀ a, ∀ ch ∈ text, out' a (out a ch) = ch) (a : σ) :
    emit next out' a (emit next out a text) = text := by
  induction text generalizing a with
  | nil => rfl
  | cons ch text ih =>
    rw [emit, emit, hout a ch List.mem_cons_self, hnext, ih fun a c hc => hout a c (List.mem_cons_of_mem _ hc)]

end
end

end Sys2Proof.Machine
end

section
/-! PROOFS. LOADKEY (46_text_procedures.md R261) and the key it loads. -/

namespace Sys2Proof.Machine

/-! ### A loaded key -/

/-- The engine, built with the glyph table `g`, holds the key `K` and takes commands. -/
structure KeyLoaded (g : GlyphTable) (K : List KeyEntry) (s : State) : Prop where
  ready : Ready s
  glyphs : s.glyphs = g
  klen : s.klen.toNat = K.length
  key : loadedKey s = K

/-- The key as LOADKEY leaves it: no table is built for it yet. -/
structure FreshKey (g : GlyphTable) (K : List KeyEntry) (s : State) : Prop extends KeyLoaded g K s where
  kav : s.kav = false
  ttv : s.ttv = false

/-- The symbol at index `j` of a key. -/
def keySymbol (K : List KeyEntry) (j : Nat) : KeyEntry := K.getD j ⟨false, 0⟩

section
variable {g : GlyphTable} {K : List KeyEntry} {s : State} (h : KeyLoaded g K s)
include h

theorem KeyLoaded.awaitingReset : s.awaitingReset = false := h.ready.1

theorem KeyLoaded.flt : s.flt = false := h.ready.2

/-- What leaves the key, its count and the fault flag as they are leaves the key loaded. -/
theorem KeyLoaded.congr {t : State} (hawaiting : t.awaitingReset = s.awaitingReset := by rfl)
    (hflt : t.flt = s.flt := by rfl) (hglyphs : t.glyphs = s.glyphs := by rfl) (hklen : t.klen = s.klen := by rfl)
    (hkey : t.key = s.key := by rfl) : KeyLoaded g K t where
  ready := ⟨hawaiting.trans h.awaitingReset, hflt.trans h.flt⟩
  glyphs := hglyphs.trans h.glyphs
  klen := by rw [hklen, h.klen]
  key := by rw [loadedKey, hklen, hkey, ← loadedKey, h.key]

theorem KeyLoaded.answer (e : BitVec 4) (r : CharWord) : KeyLoaded g K (answer e r s) :=
  h.congr (answer_awaitingReset ..) (answer_flt ..) (answer_glyphs ..) (answer_klen ..) (answer_key ..)

theorem KeyLoaded.length_le : K.length ≤ 32 := by
  have hlen := congrArg List.length h.key
  simp only [loadedKey, List.length_take, Vector.length_toList] at hlen
  omega

theorem KeyLoaded.klen_eq_zero_iff : s.klen = 0 ↔ K = [] := by
  rw [← List.length_eq_zero_iff, ← h.klen]
  exact ⟨fun hk => by simp [hk], fun hk => BitVec.eq_of_toNat_eq hk⟩

/-- An entry of the buffer below `KLEN` is the key's (R28). -/
theorem KeyLoaded.entry_key {j : RingVal} (hj : j.toNat < K.length) : entry s.key j = keySymbol K j.toNat := by
  have hentry := loadedKey_getElem? (h.klen ▸ hj : j.toNat < s.klen.toNat)
  rw [h.key] at hentry
  simp [keySymbol, List.getD_eq_getElem?_getD, hentry]

end

/-! ### Loading it (R261) -/

/-- KCLR leaves the empty key. -/
theorem gives_kclr {s : State} (h : Ready s) : Gives (call .kclr s) 0 (FreshKey s.glyphs [] ) :=
  gives_call h.1 (exec_kclr h.2)
    { ready := h, glyphs := rfl, klen := rfl, key := by simp [loadedKey], kav := rfl, ttv := rfl }

/-- KPUSH appends the classified character, while there is room. -/
theorem FreshKey.gives_kpush {g : GlyphTable} {K : List KeyEntry} {s : State} (h : FreshKey g K s)
    (hroom : K.length < 32) (ch : CharWord) : Gives (call (.kpush ch) s) 0 (FreshKey g (K ++ [classify g ch])) := by
  have hklen : s.klen.toNat < 32 := h.klen ▸ hroom
  refine gives_call h.awaitingReset (exec_kpush_of_room h.flt ch hklen)
    { ready := h.ready, glyphs := h.glyphs, klen := ?_, key := ?_, kav := rfl, ttv := rfl }
  · have hcount : (s.klen + 1).toNat = s.klen.toNat + 1 := by bv_omega
    simpa [h.klen] using hcount
  · exact (loadedKey_pushKey _ hklen).trans (by rw [h.key, h.glyphs])

theorem gives_loadKey {key : Text} {s : State} (h : Ready s) (hlen : key.length ≤ 32) :
    Gives (callAll (loadKeyCommands key) s) (0 :: List.replicate key.length 0)
      (FreshKey s.glyphs (key.map (classify s.glyphs))) :=
  gives_callAll_cons (gives_kclr h) fun _ hfresh =>
    gives_push (fun _ ch _ hroom hK => hK.gives_kpush hroom ch) key (by simpa using hlen) hfresh

/-- With 32 characters loaded the next one is one too many (41_key.md R141). -/
theorem FreshKey.call_kpush_of_full {g : GlyphTable} {K : List KeyEntry} {s : State} (h : FreshKey g K s)
    (hfull : K.length = 32) (ch : CharWord) :
    call (.kpush ch) s = (.error (.engine 7), answer 7 0 (recordError .keyovf s)) :=
  call_of_error .keyovf h.awaitingReset (exec_kpush_of_full h.flt ch (by rw [h.klen, hfull]))

/-- Settles O35: a key of more than 32 characters is one of 32 that loads and a rest that starts with the overflow. -/
theorem loadkeyLoadsTheClassifiedKey : Obligations.LoadkeyLoadsTheClassifiedKey := by
  refine fun key s h => ⟨fun hlen => ?_, fun hlong => ?_⟩
  · obtain ⟨t, ht, hfresh⟩ := gives_loadKey h hlen
    exact ⟨_, t, ht, by simpa using hfresh.klen, hfresh.key, hfresh.kav, hfresh.ttv⟩
  · have hsplit : loadKeyCommands key =
        loadKeyCommands (key.take 32) ++ .kpush key[32] :: (key.drop 33).map .kpush := by
      rw [loadKeyCommands, loadKeyCommands, List.cons_append, ← List.map_cons, ← List.map_append,
        ← List.drop_eq_getElem_cons hlong, List.take_append_drop]
    obtain ⟨t, ht, hfresh⟩ := gives_loadKey (key := key.take 32) h (List.length_take_le _ _)
    have hoverflow := hfresh.call_kpush_of_full (by simp; omega) key[32]
    exact ⟨_, by rw [hsplit, callAll_append, ht, andThen_ok, callAll_cons, hoverflow, andThen_error, andThen_error]⟩

/-! ### The shift constant and the keyed alphabet of a loaded key -/

/-- SETSH on a loaded key keeps the key (41_key.md R142). -/
theorem KeyLoaded.gives_setsh {g : GlyphTable} {K : List KeyEntry} {s : State} (h : KeyLoaded g K s) (k : RingVal) :
    Gives (call (.setsh k) s) 0 fun t => KeyLoaded g K t ∧ t.shift = k :=
  gives_call h.awaitingReset (exec_setsh h.flt k) ⟨h.congr.answer 0 0, answer_shift ..⟩

/-- The keyed alphabet is built for the loaded key. -/
structure AlphabetBuilt (g : GlyphTable) (K : List KeyEntry) (s : State) : Prop extends KeyLoaded g K s where
  kav : s.kav = true
  ka : s.ka = tableOf (kabuild K)

/-- KABUILD on a loaded key builds its alphabet and keeps the shift constant (42_keyed_alphabet_mono.md R161). -/
theorem KeyLoaded.gives_kabuild {g : GlyphTable} {K : List KeyEntry} {s : State} (h : KeyLoaded g K s) :
    Gives (call .kabuild s) 0 fun t => AlphabetBuilt g K t ∧ t.shift = s.shift :=
  gives_call h.awaitingReset (exec_kabuild h.flt)
    ⟨⟨h.congr.answer 0 0, rfl, by rw [answer_ka, h.key]⟩, answer_shift ..⟩

/-- KARD answers the glyphs of the alphabet (42_keyed_alphabet_mono.md R162). -/
theorem AlphabetBuilt.gives_kard {g : GlyphTable} {K : List KeyEntry} {s : State} (h : AlphabetBuilt g K s)
    (j : RingVal) : Gives (call (.kard j) s) (glyph g (entry (tableOf (kabuild K)) j)) (AlphabetBuilt g K) := by
  have hexec := exec_kard_of_valid h.flt h.kav j
  rw [h.glyphs, h.ka] at hexec
  exact gives_call h.awaitingReset hexec ⟨h.answer 0 _, h.kav, h.ka⟩

/-! ### `get_custom_alphabet_string` (R270) -/

/-- Reading a table at every index in order reads it whole. -/
theorem map_entry_ringValues (T : Table) : ringValues.map (entry T) = T.toList := by
  refine List.ext_getElem (by simp [ringValues]) fun i hi _ => ?_
  have hlt : i < 32 := by simpa [ringValues] using hi
  simp [ringValues, entry, Nat.mod_eq_of_lt hlt]

/-- Without members the first loop of R160 keeps nothing, and the second lists the ring. -/
theorem kabuild_of_nonmembers {K : List KeyEntry} (h : ∀ e ∈ K, e.m = false) : kabuild K = ringValues := by
  have hmembers : memberValues K = [] := by simpa [memberValues] using h
  rw [kabuild, foldl_keepMember, hmembers, List.foldl_nil, fillInRingOrder_eq]
  simp

theorem gives_customAlphabetString {key : Text} {s : State} (h : Ready s) (hlen : key.length ≤ 32) :
    Gives (customAlphabetString key s) ((kabuild (key.map (classify s.glyphs))).map (glyph s.glyphs))
      (AlphabetBuilt s.glyphs (key.map (classify s.glyphs))) := by
  have hread (K : List KeyEntry) : ringValues.map (fun j => glyph s.glyphs (entry (tableOf (kabuild K)) j)) =
      (kabuild K).map (glyph s.glyphs) := by
    conv_rhs => rw [← tableOf_kabuild_toList K, ← map_entry_ringValues, List.map_map, Function.comp_def]
  rw [← hread]
  refine (gives_callAll_append (gives_loadKey h hlen) fun _ hfresh =>
    gives_callAll_singleton (hfresh.gives_kabuild.imp fun _ => And.left)).andThen fun _ hbuilt => ?_
  exact gives_map (fun j _ hs => hs.gives_kard j) ringValues hbuilt

/-- Settles O60: KARD reads `kabuild` of the key, which is a permutation, and the ring itself without members. -/
theorem customAlphabetStringShowsTheKeyedAlphabet : Obligations.CustomAlphabetStringShowsTheKeyedAlphabet := by
  intro key s h hlen
  obtain ⟨t, ht, -⟩ := gives_customAlphabetString h hlen
  refine ⟨_, t, ht, rfl, (kabuild_perm _).map _, fun hnone => ?_⟩
  rw [kabuild_of_nonmembers (by simpa using hnone)]

end Sys2Proof.Machine
end

section
/-! PROOFS. Substitution over a table, and the simple cipher (46_text_procedures.md R262, R263). -/

namespace Sys2Proof.Machine

/-! ### Substitution -/

/-- A member is replaced by the glyph of what `f` makes of its value, a non-member stays
(42_keyed_alphabet_mono.md R163, 43_poly.md R186). -/
def substitute (g : GlyphTable) (f : RingVal → RingVal) (ch : CharWord) : CharWord :=
  if (classify g ch).m then glyph g (f (val g ch)) else ch

/-- From the place of a value in the table, the value `k` places on or back, as `move` says. -/
def throughTable (move : RingVal → RingVal → RingVal) (T : Table) (k v : RingVal) : RingVal :=
  entry T (move ((indexOf T v).getD 0) k)

theorem throughTable_entry (move : RingVal → RingVal → RingVal) {T : Table} (h : IsPermutation T) (k j : RingVal) :
    throughTable move T k (entry T j) = entry T (move j k) := by
  rw [throughTable, indexOf_entry h, Option.getD_some]

/-- On a permutation moving `k` places back undoes moving `k` places on. -/
theorem throughTable_undo {T : Table} (h : IsPermutation T) (k v : RingVal) :
    throughTable (· - ·) T k (throughTable (· + ·) T k v) = v := by
  obtain ⟨j, rfl⟩ := exists_entry h v
  rw [throughTable_entry _ h, throughTable_entry _ h, BitVec.add_sub_cancel]

section
variable {g : GlyphTable} {f f' : RingVal → RingVal} {ch : CharWord}

theorem substitute_of_member (hm : (classify g ch).m = true) : substitute g f ch = glyph g (f (val g ch)) := if_pos hm

theorem substitute_of_nonmember (hm : (classify g ch).m = false) : substitute g f ch = ch := if_neg (by simp [hm])

theorem upperCase_of_upperOrNonMember (h : UpperOrNonMember g ch) : upperCase g ch = ch := by
  cases hm : (classify g ch).m with
  | true => exact (if_pos hm).trans (h hm)
  | false => exact if_neg (by simp [hm])

section
variable (hg : g.Valid)
include hg

theorem classify_glyph (v : RingVal) : classify g (glyph g v) = ⟨true, v⟩ := classify_upAt hg v

theorem glyph_injective : Function.Injective (glyph g) := Function.LeftInverse.injective (val_glyph hg)

theorem upperOrNonMember_glyph (v : RingVal) : UpperOrNonMember g (glyph g v) := fun _ => by rw [val_glyph hg]

/-- A substitution answers members with members and leaves the others. -/
theorem member_substitute : (classify g (substitute g f ch)).m = (classify g ch).m := by
  cases hm : (classify g ch).m with
  | true => rw [substitute_of_member hm, classify_glyph hg]
  | false => rw [substitute_of_nonmember hm, hm]

theorem upperOrNonMember_substitute : UpperOrNonMember g (substitute g f ch) := by
  cases hm : (classify g ch).m with
  | true => exact substitute_of_member hm ▸ upperOrNonMember_glyph hg _
  | false => exact fun hm' => by simp [member_substitute hg, hm] at hm'

/-- A substitution is a lane of a block transform that does the same at every place (44_sblock.md R221). -/
theorem substitute_undo (hundo : ∀ v, f' (f v) = v) (h : UpperOrNonMember g ch) :
    substitute g f' (substitute g f ch) = ch :=
  (lane_undo hg (f := fun _ => f) (f' := fun _ => f') (fun _ => hundo) 0 ch).trans (upperCase_of_upperOrNonMember h)

end
end

/-! ### The monoalphabetic cipher with a built alphabet -/

/-- What the simple cipher answers to a character, the index moved by `move`; with the empty key, the character itself
(42_keyed_alphabet_mono.md R163, R164). -/
def monoChar (g : GlyphTable) (K : List KeyEntry) (k : RingVal) (move : RingVal → RingVal → RingVal) (ch : CharWord) :
    CharWord :=
  if K = [] then ch else substitute g (throughTable move (tableOf (kabuild K)) k) ch

theorem monoChar_of_emptyKey (g : GlyphTable) (k : RingVal) (move : RingVal → RingVal → RingVal) :
    monoChar g [] k move = id := rfl

theorem monoChar_of_key (g : GlyphTable) {K : List KeyEntry} (hK : K ≠ []) (k : RingVal)
    (move : RingVal → RingVal → RingVal) :
    monoChar g K k move = substitute g (throughTable move (tableOf (kabuild K)) k) := funext fun _ => if_neg hK

theorem monoChar_undo {g : GlyphTable} (hg : g.Valid) (K : List KeyEntry) (k : RingVal) {ch : CharWord}
    (h : UpperOrNonMember g ch) : monoChar g K k (· - ·) (monoChar g K k (· + ·) ch) = ch := by
  by_cases hK : K = []
  · subst hK
    rfl
  · rw [monoChar_of_key g hK, monoChar_of_key g hK]
    exact substitute_undo hg (throughTable_undo (tableOf_isPermutation (kabuild_perm K)) k) h

theorem map_monoChar_undo {g : GlyphTable} (hg : g.Valid) (K : List KeyEntry) (k : RingVal) {text : Text}
    (h : ∀ ch ∈ text, UpperOrNonMember g ch) :
    (text.map (monoChar g K k (· + ·))).map (monoChar g K k (· - ·)) = text := by
  rw [List.map_map]
  exact (List.map_congr_left fun ch hch => monoChar_undo hg K k (h ch hch)).trans (List.map_id text)

/-- The cipher answers as `monoChar` says, and changes nothing else. -/
theorem AlphabetBuilt.monoCipher_eq {g : GlyphTable} {K : List KeyEntry} {s : State} (h : AlphabetBuilt g K s)
    (move : RingVal → RingVal → RingVal) (ch : CharWord) :
    monoCipher move ch s = .next (answer 0 (monoChar g K s.shift move ch) s) := by
  by_cases hK : K = []
  · subst hK
    exact monoCipher_of_emptyKey move (h.klen_eq_zero_iff.2 rfl)
  have hklen : s.klen ≠ 0 := fun hzero => hK (h.klen_eq_zero_iff.1 hzero)
  rw [monoChar_of_key g hK, ← h.ka, ← h.glyphs]
  cases hm : (classify s.glyphs ch).m with
  | false => rw [substitute_of_nonmember hm, monoCipher_of_nonmember move hklen h.kav hm]
  | true =>
    obtain ⟨j, hj, -⟩ := indexOf_of_perm (h.ka ▸ tableOf_isPermutation (kabuild_perm K)) (val s.glyphs ch)
    rw [substitute_of_member hm, throughTable, hj, Option.getD_some, monoCipher_of_index move hklen h.kav hm hj]

/-! ### The simple cipher -/

/-- The parts LOADKEY, SETSH and KABUILD of the procedure (R262). -/
theorem gives_prepareMono {key : Text} {s : State} (h : Ready s) (hlen : key.length ≤ 32) (k : RingVal) :
    Gives (callAll (loadKeyCommands key ++ [.setsh k, .kabuild]) s) ((0 :: List.replicate key.length 0) ++ [0, 0])
      fun t => AlphabetBuilt s.glyphs (key.map (classify s.glyphs)) t ∧ t.shift = k :=
  gives_callAll_append (gives_loadKey h hlen) fun _ hfresh =>
    gives_callAll_cons (hfresh.gives_setsh k) fun _ ⟨hloaded, hshift⟩ =>
      gives_callAll_singleton (hloaded.gives_kabuild.imp fun _ => And.imp_right fun hkept => hkept.trans hshift)

/-- The procedure substitutes character by character (R262, R263). -/
theorem gives_runMono {mk : CharWord → Instr} {move : RingVal → RingVal → RingVal}
    (hmk : ∀ {u : State}, u.flt = false → ∀ ch, exec (mk ch) u = monoCipher move ch u) (text : Text) {key : Text}
    {s : State} (h : Ready s) (hlen : key.length ≤ 32) {g : GlyphTable} (hg : s.glyphs = g) :
    Gives (runMono mk text key s) (text.map (monoChar g (key.map (classify g)) Params.shiftDefault move))
      (AlphabetBuilt g (key.map (classify g))) := by
  subst hg
  refine (gives_prepareMono h hlen _).andThen fun _ hready =>
    (gives_map (P := fun u => AlphabetBuilt _ _ u ∧ u.shift = _) ?_ text hready).imp fun _ => And.left
  rintro ch u ⟨hbuilt, hshift⟩
  have hexec := (hmk hbuilt.flt ch).trans (hbuilt.monoCipher_eq move ch)
  rw [hshift] at hexec
  exact gives_call hbuilt.awaitingReset hexec ⟨⟨hbuilt.answer 0 _, hbuilt.kav, hbuilt.ka⟩, hshift⟩

/-- Settles O53: character by character the second run undoes the first, by `monoChar_undo`. -/
theorem simpleCipherRoundTrips : Obligations.SimpleCipherRoundTrips := by
  intro text key s h hg hlen htext
  obtain ⟨t, ht, hbuilt⟩ := gives_runMono exec_menc text h hlen rfl
  obtain ⟨u, hu, -⟩ := gives_runMono exec_mdec
    (text.map (monoChar s.glyphs (key.map (classify s.glyphs)) Params.shiftDefault (· + ·))) hbuilt.ready hlen
    hbuilt.glyphs
  rw [map_monoChar_undo hg _ _ htext] at hu
  exact ⟨_, t, u, ht, List.length_map .., hbuilt.ready, hu⟩

end Sys2Proof.Machine
end

section
/-! PROOFS. The polyalphabetic cipher (46_text_procedures.md R264, R265, R274) as a transducer over its position. -/

namespace Sys2Proof.Machine

/-! ### The position of a text (43_poly.md R186 to R188) -/

/-- What the procedure fixes for a whole text: the glyph table, the key and the shift constant. -/
structure PolyConfig where
  glyphs : GlyphTable
  key : List KeyEntry
  shift : RingVal

/-- Where the cipher stands in a text: the table, the key index and the bias. -/
structure PolyPos where
  tt : Table
  kidx : RingVal
  bias : RingVal
  perm : IsPermutation tt

/-- The table after one shift; a permutation always has a pivot, so it never stays for want of one. -/
def shifted (T : Table) (t : KeyEntry) (bias : RingVal) : Table := ((shiftTable T t bias).map Prod.fst).getD T

theorem shiftTable_eq_shifted {T : Table} (h : IsPermutation T) (t : KeyEntry) (bias : RingVal) :
    ∃ p, shiftTable T t bias = some (shifted T t bias, p) := by
  obtain ⟨⟨T', p⟩, hs⟩ := Option.ne_none_iff_exists'.1 (shiftTable_ne_none h t bias)
  exact ⟨p, by simp [shifted, hs]⟩

theorem shifted_isPermutation {T : Table} (h : IsPermutation T) (t : KeyEntry) (bias : RingVal) :
    IsPermutation (shifted T t bias) := by
  obtain ⟨p, hs⟩ := shiftTable_eq_shifted h t bias
  exact shiftTable_isPermutation h hs

/-- The position TBUILD sets (R182). -/
def PolyPos.start (K : List KeyEntry) : PolyPos where
  tt := tableOf (tbuild K)
  kidx := 0
  bias := BitVec.ofNat 5 K.length
  perm := tableOf_isPermutation (tbuild_perm K)

/-- The table shift of a member (R183, R187). -/
def PolyPos.shiftTable (K : List KeyEntry) (a : PolyPos) : PolyPos :=
  { a with
    tt := shifted a.tt (keySymbol K a.kidx.toNat) a.bias
    perm := shifted_isPermutation a.perm _ _ }

/-- `advance()` (R188). -/
def PolyPos.advance (K : List KeyEntry) (a : PolyPos) : PolyPos :=
  { a with kidx := BitVec.ofNat 5 ((a.kidx.toNat + 1) % K.length), bias := a.bias + 1 }

/-- The position after one character: a member shifts the table, every character advances; with the empty key nothing
moves. -/
def PolyConfig.next (c : PolyConfig) (a : PolyPos) (ch : CharWord) : PolyPos :=
  if c.key = [] then a
  else if (classify c.glyphs ch).m then (a.shiftTable c.key).advance c.key
  else a.advance c.key

/-- What the cipher answers to a character at a position, the index moved by `move`. -/
def PolyConfig.out (c : PolyConfig) (move : RingVal → RingVal → RingVal) (a : PolyPos) (ch : CharWord) : CharWord :=
  if c.key = [] then ch else substitute c.glyphs (throughTable move a.tt c.shift) ch

/-- The text the cipher answers. -/
def PolyConfig.cipher (c : PolyConfig) (move : RingVal → RingVal → RingVal) (text : Text) : Text :=
  emit c.next (c.out move) (.start c.key) text

/-- The position the cipher ends at. -/
def PolyConfig.finish (c : PolyConfig) (text : Text) : PolyPos := text.foldl c.next (.start c.key)

section
variable {c : PolyConfig} {a : PolyPos} {ch : CharWord} {move : RingVal → RingVal → RingVal}

theorem PolyConfig.next_of_emptyKey (hK : c.key = []) : c.next a ch = a := if_pos hK

theorem PolyConfig.out_of_emptyKey (hK : c.key = []) : c.out move a ch = ch := if_pos hK

theorem PolyConfig.out_of_key (hK : c.key ≠ []) :
    c.out move a ch = substitute c.glyphs (throughTable move a.tt c.shift) ch := if_neg hK

theorem PolyConfig.next_of_member (hK : c.key ≠ []) (hm : (classify c.glyphs ch).m = true) :
    c.next a ch = (a.shiftTable c.key).advance c.key :=
  (if_neg hK).trans (if_pos hm)

theorem PolyConfig.next_of_nonmember (hK : c.key ≠ []) (hm : (classify c.glyphs ch).m = false) :
    c.next a ch = a.advance c.key :=
  (if_neg hK).trans (if_neg (by simp [hm]))

/-- R187, R274: of a character only whether it is a member moves the position. -/
theorem PolyConfig.next_congr {ch' : CharWord} (h : (classify c.glyphs ch).m = (classify c.glyphs ch').m) :
    c.next a ch = c.next a ch' := by
  rw [next, h, ← next]

/-- A character is neither repeated nor dropped. -/
theorem PolyConfig.cipher_length (text : Text) : (c.cipher move text).length = text.length := emit_length text _

/-- The text is enciphered from its front, so its first characters alone give the first characters of the ciphertext. -/
theorem PolyConfig.cipher_take (text : Text) (n : Nat) : (c.cipher move text).take n = c.cipher move (text.take n) :=
  emit_take text n _

theorem PolyConfig.cipher_of_emptyKey (hK : c.key = []) (text : Text) : c.cipher move text = text := by
  have hidentity (a : PolyPos) : emit c.next (c.out move) a text = text := by
    induction text with
    | nil => rfl
    | cons ch text ih => rw [emit, out_of_emptyKey hK, next_of_emptyKey hK, ih]
  exact hidentity _

section
variable (hg : c.glyphs.Valid)
include hg

/-- The answer to a character moves the position as the character does. -/
theorem PolyConfig.next_out (move : RingVal → RingVal → RingVal) (a : PolyPos) (ch : CharWord) :
    c.next a (c.out move a ch) = c.next a ch := by
  by_cases hK : c.key = []
  · rw [out_of_emptyKey hK]
  · exact next_congr (out_of_key hK ▸ member_substitute hg)

theorem PolyConfig.out_undo (a : PolyPos) (h : UpperOrNonMember c.glyphs ch) :
    c.out (· - ·) a (c.out (· + ·) a ch) = ch := by
  by_cases hK : c.key = []
  · rw [out_of_emptyKey hK, out_of_emptyKey hK]
  · rw [out_of_key hK, out_of_key hK]
    exact substitute_undo hg (throughTable_undo a.perm c.shift) h

theorem PolyConfig.upperOrNonMember_out (a : PolyPos) (h : UpperOrNonMember c.glyphs ch) :
    UpperOrNonMember c.glyphs (c.out move a ch) := by
  by_cases hK : c.key = []
  · rwa [out_of_emptyKey hK]
  · exact out_of_key hK ▸ upperOrNonMember_substitute hg

section
variable {text : Text} (htext : ∀ ch ∈ text, UpperOrNonMember c.glyphs ch)
include htext

/-- R189(d): the second run undoes the first. -/
theorem PolyConfig.cipher_undo : c.cipher (· - ·) (c.cipher (· + ·) text) = text :=
  emit_undo (next_out hg _) (fun a ch hch => out_undo hg a (htext ch hch)) _

theorem PolyConfig.upperOrNonMember_cipher : ∀ y ∈ c.cipher move text, UpperOrNonMember c.glyphs y :=
  forall_mem_emit (fun a ch hch => upperOrNonMember_out hg a (htext ch hch)) _

end

/-- R189(e): both runs end at the same position. -/
theorem PolyConfig.finish_cipher (text : Text) : c.finish (c.cipher move text) = c.finish text :=
  foldl_emit (next_out hg _) text _

end

/-- After `n` characters the position is `n` as its two residues (R188). -/
theorem PolyConfig.finish_residues (hK : c.key ≠ []) (hlen : c.key.length ≤ 32) (text : Text) :
    (c.finish text).kidx.toNat = text.length % c.key.length ∧
      (c.finish text).bias.toNat = (c.key.length + text.length) % 32 := by
  have hpos : 0 < c.key.length := List.length_pos_iff.2 hK
  induction text using List.reverseRecOn with
  | nil => simp [finish, PolyPos.start]
  | append_singleton text ch ih =>
    obtain ⟨hkidx, hbias⟩ := ih
    have hmod : (text.length + 1) % c.key.length < 32 := (Nat.mod_lt _ hpos).trans_le hlen
    have hadvance : (c.finish (text ++ [ch])).kidx = BitVec.ofNat 5 (((c.finish text).kidx.toNat + 1) % c.key.length) ∧
        (c.finish (text ++ [ch])).bias = (c.finish text).bias + 1 := by
      rw [finish, List.foldl_concat, ← finish]
      cases hm : (classify c.glyphs ch).m with
      | true => rw [next_of_member hK hm]; exact ⟨rfl, rfl⟩
      | false => rw [next_of_nonmember hK hm]; exact ⟨rfl, rfl⟩
    rw [hadvance.1, hadvance.2, hkidx, BitVec.toNat_add, hbias]
    simp [Nat.mod_eq_of_lt hmod, Nat.add_assoc]

end

/-! ### The engine at a position -/

/-- The engine runs the cipher of the configuration `c` and stands at the position `a`. -/
structure PolyAt (c : PolyConfig) (a : PolyPos) (s : State) : Prop extends KeyLoaded c.glyphs c.key s where
  shift : s.shift = c.shift
  ttv : s.ttv = true
  tt : s.tt = a.tt
  kidx : s.kidx = a.kidx
  bias : s.bias = a.bias
  kidx_lt : c.key ≠ [] → a.kidx.toNat < c.key.length

section
variable {c : PolyConfig} {a : PolyPos} {s : State}

theorem PolyAt.answer (h : PolyAt c a s) (e : BitVec 4) (r : CharWord) : PolyAt c a (answer e r s) :=
  ⟨h.toKeyLoaded.answer e r, h.shift, h.ttv, h.tt, h.kidx, h.bias, h.kidx_lt⟩

/-- `advance()` on the engine is `advance()` on the position. -/
theorem PolyAt.advance (h : PolyAt c a s) (hK : c.key ≠ []) : PolyAt c (a.advance c.key) (advance s) where
  toKeyLoaded := h.toKeyLoaded.congr
  shift := h.shift
  ttv := h.ttv
  tt := h.tt
  kidx := by rw [advance_kidx, h.kidx, h.klen]; rfl
  bias := by rw [advance_bias, h.bias]; rfl
  kidx_lt _ := by
    have hmod : (a.kidx.toNat + 1) % c.key.length < c.key.length := Nat.mod_lt _ (List.length_pos_iff.2 hK)
    have hle := h.length_le
    simp only [PolyPos.advance, BitVec.toNat_ofNat]
    omega

/-- So is the table shift. -/
theorem PolyAt.setTable (h : PolyAt c a s) : PolyAt c (a.shiftTable c.key) { s with tt := (a.shiftTable c.key).tt } :=
  ⟨h.toKeyLoaded.congr, h.shift, h.ttv, rfl, h.kidx, h.bias, h.kidx_lt⟩

/-- The shift the cipher makes with a non-empty key, at the position. -/
theorem PolyAt.shiftTable_eq (h : PolyAt c a s) (hK : c.key ≠ []) :
    ∃ p, shiftTable s.tt (entry s.key s.kidx) s.bias = some ((a.shiftTable c.key).tt, p) := by
  rw [h.tt, h.bias, h.kidx, h.entry_key (h.kidx_lt hK)]
  exact shiftTable_eq_shifted a.perm _ _

/-- One step of the cipher answers and moves as the transducer does. -/
theorem PolyAt.gives_cipher {i : Instr} {move : RingVal → RingVal → RingVal} {ch : CharWord} (h : PolyAt c a s)
    (hi : exec i s = polyCipher move ch s) : Gives (call i s) (c.out move a ch) (PolyAt c (c.next a ch)) := by
  by_cases hK : c.key = []
  · rw [PolyConfig.out_of_emptyKey hK, PolyConfig.next_of_emptyKey hK]
    exact gives_call h.awaitingReset (hi.trans (polyCipher_of_emptyKey move (h.klen_eq_zero_iff.2 hK))) (h.answer 0 ch)
  have hklen : s.klen ≠ 0 := fun hzero => hK (h.klen_eq_zero_iff.1 hzero)
  rw [PolyConfig.out_of_key hK]
  cases hm : (classify c.glyphs ch).m with
  | false =>
    rw [PolyConfig.next_of_nonmember hK hm, substitute_of_nonmember hm]
    have hstep := hi.trans (polyCipher_of_nonmember move hklen h.ttv (h.glyphs ▸ hm))
    exact gives_call h.awaitingReset hstep ((h.advance hK).answer 0 ch)
  | true =>
    rw [PolyConfig.next_of_member hK hm, substitute_of_member hm]
    obtain ⟨p, hT⟩ := h.shiftTable_eq hK
    obtain ⟨pos, hpos, -⟩ := indexOf_of_perm a.perm (val c.glyphs ch)
    have hstep := hi.trans (polyCipher_of_index move hklen h.ttv (h.glyphs ▸ hm) (h.glyphs ▸ h.tt ▸ hpos) hT)
    rw [throughTable, hpos, Option.getD_some, ← h.glyphs, ← h.shift, ← h.tt]
    exact gives_call h.awaitingReset hstep ((h.setTable.advance hK).answer 0 _)

/-- TBUILD on a loaded key of members puts the engine at the start (R182). -/
theorem KeyLoaded.gives_tbuild (h : KeyLoaded c.glyphs c.key s) (hshift : s.shift = c.shift)
    (hmembers : ∀ e ∈ c.key, e.m = true) : Gives (call .tbuild s) 0 (PolyAt c (.start c.key)) := by
  have hexec := exec_tbuild_of_members h.flt (h.key.symm ▸ hmembers)
  rw [h.key, klen_setWidth, ringVal_ofNat_mod, h.klen] at hexec
  refine gives_call h.awaitingReset hexec (PolyAt.answer ?_ 0 0)
  exact ⟨h.congr, hshift, rfl, rfl, rfl, rfl, fun hK => List.length_pos_iff.2 hK⟩

end

/-! ### The procedures -/

/-- The configuration of the procedures for an engine with the glyph table `g` (R264). -/
def polyConfig (g : GlyphTable) (key : Text) (shift : Int) : PolyConfig :=
  ⟨g, key.map (classify g), BitVec.ofInt 5 shift⟩

theorem polyConfig_key_eq_nil_iff {g : GlyphTable} {key : Text} {shift : Int} :
    (polyConfig g key shift).key = [] ↔ key = [] := List.map_eq_nil_iff

theorem polyConfig_key_length (g : GlyphTable) (key : Text) (shift : Int) :
    (polyConfig g key shift).key.length = key.length := List.length_map _

section
variable {g : GlyphTable} {key : Text} {s : State} (h : Ready s) (hg : s.glyphs = g) (hlen : key.length ≤ 32)
  (hmembers : ∀ ch ∈ key, (classify g ch).m = true)
include h hg hlen hmembers

/-- The procedure runs the transducer from the start (R264, R265). -/
theorem gives_runPoly {mk : CharWord → Instr} {move : RingVal → RingVal → RingVal}
    (hmk : ∀ {u : State}, u.flt = false → ∀ ch, exec (mk ch) u = polyCipher move ch u) (text : Text) (shift : Int) :
    Gives (runPoly mk text key shift s) ((polyConfig g key shift).cipher move text)
      (PolyAt (polyConfig g key shift) ((polyConfig g key shift).finish text)) := by
  subst hg
  have hprepare : Gives (callAll (loadKeyCommands key ++ [.setsh (BitVec.ofInt 5 shift), .tbuild]) s)
      ((0 :: List.replicate key.length 0) ++ [0, 0])
      (PolyAt (polyConfig s.glyphs key shift) (.start (polyConfig s.glyphs key shift).key)) :=
    gives_callAll_append (gives_loadKey h hlen) fun _ hfresh =>
      gives_callAll_cons (hfresh.gives_setsh _) fun _ ⟨hloaded, hshift⟩ =>
        gives_callAll_singleton (hloaded.gives_tbuild (c := polyConfig s.glyphs key shift) hshift
          (List.forall_mem_map.2 hmembers))
  exact hprepare.andThen fun _ hstart => gives_emit (fun _ ch _ hu => hu.gives_cipher (hmk hu.flt ch)) text hstart

theorem gives_encryptPolyalphabetic (text : Text) (shift : Int) :
    Gives (encryptPolyalphabetic text key shift s) ((polyConfig g key shift).cipher (· + ·) text)
      (PolyAt (polyConfig g key shift) ((polyConfig g key shift).finish text)) :=
  gives_runPoly h hg hlen hmembers exec_penc text shift

theorem gives_decryptPolyalphabetic (text : Text) (shift : Int) :
    Gives (decryptPolyalphabetic text key shift s) ((polyConfig g key shift).cipher (· - ·) text)
      (PolyAt (polyConfig g key shift) ((polyConfig g key shift).finish text)) :=
  gives_runPoly h hg hlen hmembers exec_pdec text shift

end

/-- Settles O54, by the transducer: its second run undoes the first and ends at the same position. -/
theorem polyalphabeticCipherRoundTrips : Obligations.PolyalphabeticCipherRoundTrips := by
  intro text key shift s h hg hlen hmembers htext
  obtain ⟨t, ht, hend⟩ := gives_encryptPolyalphabetic h rfl hlen hmembers text shift
  obtain ⟨u, hu, hend'⟩ := gives_decryptPolyalphabetic (g := s.glyphs) hend.ready hend.glyphs hlen hmembers
    ((polyConfig s.glyphs key shift).cipher (· + ·) text) shift
  rw [PolyConfig.cipher_undo (c := polyConfig s.glyphs key shift) hg htext] at hu
  rw [PolyConfig.finish_cipher (c := polyConfig s.glyphs key shift) hg] at hend'
  refine ⟨_, t, u, ht, PolyConfig.cipher_length _, hend.ready, hu, hend'.tt.trans hend.tt.symm,
    hend'.kidx.trans hend.kidx.symm, hend'.bias.trans hend.bias.symm, fun hK => ?_⟩
  rw [hend.kidx, hend.bias, ← polyConfig_key_length s.glyphs key shift]
  exact PolyConfig.finish_residues (mt polyConfig_key_eq_nil_iff.1 hK) (by rwa [polyConfig_key_length]) text

/-- Settles O59: with the empty key each cipher answers the character itself. -/
theorem emptyKeyIsTheIdentity : Obligations.EmptyKeyIsTheIdentity := by
  intro text shift s h
  have hlen : ([] : Text).length ≤ 32 := Nat.zero_le _
  have hmembers : ∀ ch ∈ ([] : Text), (classify s.glyphs ch).m = true := List.forall_mem_nil _
  obtain ⟨t, ht, -⟩ := gives_runMono exec_menc text h hlen rfl
  obtain ⟨u, hu, -⟩ := gives_runMono exec_mdec text h hlen rfl
  obtain ⟨v, hv, -⟩ := gives_encryptPolyalphabetic h rfl hlen hmembers text shift
  obtain ⟨w, hw, -⟩ := gives_decryptPolyalphabetic h rfl hlen hmembers text shift
  rw [PolyConfig.cipher_of_emptyKey rfl] at hv hw
  rw [List.map_nil, monoChar_of_emptyKey, List.map_id] at ht hu
  exact ⟨⟨t, ht⟩, ⟨u, hu⟩, ⟨v, hv⟩, w, hw⟩

end Sys2Proof.Machine
end

section
/-! PROOFS. The table sequence of the polyalphabetic cipher does not depend on the data (46_text_procedures.md R274,
43_poly.md R187). -/

namespace Sys2Proof.Machine

/-! ### Two texts through one transducer -/

section
variable {σ : Type} {next : σ → CharWord → σ} {out : σ → CharWord → CharWord} {r : CharWord → CharWord → Prop}
  {x y : Text} (hxy : List.Forall₂ r x y) (hnext : ∀ a p q, r p q → next a p = next a q)
include hxy hnext

/-- Texts whose characters move the position alike end at one position. -/
theorem foldl_eq_of_forall₂ (a : σ) : x.foldl next a = y.foldl next a := by
  induction hxy generalizing a with
  | nil => rfl
  | cons hpq _ ih => rw [List.foldl_cons, List.foldl_cons, hnext a _ _ hpq, ih]

/-- Their answers agree exactly where the characters agree in what `f` tells of them. -/
theorem emit_getD_eq_iff {τ : Type} {f : CharWord → τ} (hout : ∀ a p q, r p q → (out a p = out a q ↔ f p = f q))
    (a : σ) {k : Nat} (hk : k < x.length) :
    (emit next out a x).getD k 0 = (emit next out a y).getD k 0 ↔ f (x.getD k 0) = f (y.getD k 0) := by
  induction hxy generalizing a k with
  | nil => simp at hk
  | cons hpq _ ih =>
    cases k with
    | zero => exact hout a _ _ hpq
    | succ k =>
      rw [emit, emit, hnext a _ _ hpq]
      exact ih _ (Nat.lt_of_succ_lt_succ hk)

end

/-! ### Two members at one position -/

/-- The characters are the same, or both members (R274). -/
def SameMembership (g : GlyphTable) (p q : CharWord) : Prop :=
  p = q ∨ ((classify g p).m = true ∧ (classify g q).m = true)

theorem SameMembership.m_eq {g : GlyphTable} {p q : CharWord} (h : SameMembership g p q) :
    (classify g p).m = (classify g q).m := by
  obtain rfl | ⟨hp, hq⟩ := h
  · rfl
  · rw [hp, hq]

/-- Members are the same symbol when they have one ring value. -/
theorem classify_eq_iff_of_members {g : GlyphTable} {p q : CharWord} (hp : (classify g p).m = true)
    (hq : (classify g q).m = true) : classify g p = classify g q ↔ val g p = val g q := by
  refine ⟨congrArg KeyEntry.v, fun hv => ?_⟩
  calc classify g p = ⟨(classify g p).m, val g p⟩ := rfl
    _ = ⟨(classify g q).m, val g q⟩ := by rw [hp, hq, hv]

theorem throughTable_injective {T : Table} (h : IsPermutation T) (k : RingVal) :
    Function.Injective (throughTable (· + ·) T k) :=
  Function.LeftInverse.injective (throughTable_undo h k)

/-- At one position the answers to two members differ as the symbols do. -/
theorem PolyConfig.out_eq_iff {c : PolyConfig} (hg : c.glyphs.Valid) (hK : c.key ≠ []) (a : PolyPos) {p q : CharWord}
    (h : SameMembership c.glyphs p q) :
    c.out (· + ·) a p = c.out (· + ·) a q ↔ classify c.glyphs p = classify c.glyphs q := by
  obtain rfl | ⟨hp, hq⟩ := h
  · simp
  · rw [out_of_key hK, out_of_key hK, substitute_of_member hp, substitute_of_member hq, (glyph_injective hg).eq_iff,
      (throughTable_injective a.perm c.shift).eq_iff, classify_eq_iff_of_members hp hq]

/-- Settles O55: characters of the same membership move the position alike, so both texts meet the same tables. -/
theorem polyTableSequenceIgnoresTheData : Obligations.PolyTableSequenceIgnoresTheData := by
  intro x y key shift s h hg hlen hne hmembers hxy
  have hK : (polyConfig s.glyphs key shift).key ≠ [] := mt polyConfig_key_eq_nil_iff.1 hne
  have hnext (a : PolyPos) (p q : CharWord) (hpq : SameMembership s.glyphs p q) :
      (polyConfig s.glyphs key shift).next a p = (polyConfig s.glyphs key shift).next a q :=
    PolyConfig.next_congr hpq.m_eq
  have hout (a : PolyPos) (p q : CharWord) (hpq : SameMembership s.glyphs p q) :
      (polyConfig s.glyphs key shift).out (· + ·) a p = (polyConfig s.glyphs key shift).out (· + ·) a q ↔
        classify s.glyphs p = classify s.glyphs q :=
    PolyConfig.out_eq_iff hg hK a hpq
  obtain ⟨t, ht, hend⟩ := gives_encryptPolyalphabetic h rfl hlen hmembers x shift
  obtain ⟨u, hu, hend'⟩ := gives_encryptPolyalphabetic h rfl hlen hmembers y shift
  have hfinish : (polyConfig s.glyphs key shift).finish x = (polyConfig s.glyphs key shift).finish y :=
    foldl_eq_of_forall₂ hxy hnext _
  rw [← hfinish] at hend'
  exact ⟨_, _, t, u, ht, hu, hend.tt.trans hend'.tt.symm, hend.kidx.trans hend'.kidx.symm,
    hend.bias.trans hend'.bias.symm, PolyConfig.cipher_length x, PolyConfig.cipher_length y,
    fun _ hk => emit_getD_eq_iff hxy hnext hout _ hk⟩

end Sys2Proof.Machine
end

section
/-! PROOFS. Texts in blocks of four, and the S-block functions (46_text_procedures.md R266, R267). -/

namespace Sys2Proof.Machine

/-! ### The host's checks -/

/-- Settles O57: both checks come before the first command. -/
theorem sBlockLengthErrorsComeFirst : Obligations.SBlockLengthErrorsComeFirst := by
  refine fun text key s => ⟨fun hkey => ?_, fun hkey htext => ?_⟩
  · exact ⟨if_pos hkey, if_pos hkey⟩
  · have hchecked : ¬ key.length ≠ Params.sbKeyLen := not_not.2 hkey
    exact ⟨(if_neg hchecked).trans (if_pos htext), (if_neg hchecked).trans (if_pos htext)⟩

/-! ### Whole blocks -/

/-- A text transformed block by block: a character's lane is its place modulo 4 (44_sblock.md R221). -/
def laneText (g : GlyphTable) (f : RingVal → RingVal → RingVal) (text : Text) : Text :=
  text.mapIdx fun i ch => lane g f (BitVec.ofNat 5 (i % 4)) ch

theorem laneText_length (g : GlyphTable) (f : RingVal → RingVal → RingVal) (text : Text) :
    (laneText g f text).length = text.length := List.length_mapIdx

theorem laneText_append (g : GlyphTable) (f : RingVal → RingVal → RingVal) {B : Text} (hB : B.length = 4)
    (rest : Text) : laneText g f (B ++ rest) = laneText g f B ++ laneText g f rest := by
  simp [laneText, List.mapIdx_append, hB]

/-- The transformed block buffer is the transformed text of one block. -/
theorem mapBlock_toList (g : GlyphTable) (f : RingVal → RingVal → RingVal) (b : Block) :
    (mapBlock g f b).toList = laneText g f b.toList := by
  refine List.ext_getElem (by simp [laneText]) fun i hi _ => ?_
  have hlt : i < 4 := by simpa using hi
  simp [laneText, mapBlock_getElem, Nat.mod_eq_of_lt hlt]

theorem laneText_undo {g : GlyphTable} (hg : g.Valid) {f f' : RingVal → RingVal → RingVal}
    (hundo : ∀ i v, f' i (f i v) = v) (text : Text) : laneText g f' (laneText g f text) = text.map (upperCase g) :=
  List.ext_getElem (by simp [laneText]) fun i _ _ => by simp [laneText, lane_undo hg hundo]

/-! ### One block through the engine -/

/-- The engine holds the key `K` and the block words `B`. -/
structure BlockHeld (g : GlyphTable) (K : List KeyEntry) (B : Text) (s : State) : Prop extends KeyLoaded g K s where
  bcnt : s.bcnt.toNat = B.length
  held : s.blk.toList.take s.bcnt.toNat = B

section
variable {g : GlyphTable} {K : List KeyEntry} {B : Text} {s : State}

theorem BlockHeld.length_le (h : BlockHeld g K B s) : B.length ≤ 4 := by
  have hlen := congrArg List.length h.held
  simp only [List.length_take, Vector.length_toList] at hlen
  omega

theorem BlockHeld.answer (h : BlockHeld g K B s) (e : BitVec 4) (r : CharWord) : BlockHeld g K B (answer e r s) :=
  ⟨h.toKeyLoaded.answer e r, h.bcnt, h.held⟩

theorem KeyLoaded.gives_bclr (h : KeyLoaded g K s) : Gives (call .bclr s) 0 (BlockHeld g K []) :=
  gives_call h.awaitingReset (exec_bclr h.flt)
    (BlockHeld.answer (s := { s with bcnt := 0 }) ⟨h.congr, rfl, List.take_zero⟩ 0 0)

theorem BlockHeld.gives_bpush (h : BlockHeld g K B s) (hroom : B.length < 4) (ch : CharWord) :
    Gives (call (.bpush ch) s) 0 (BlockHeld g K (B ++ [ch])) := by
  have hbcnt : s.bcnt.toNat < 4 := h.bcnt ▸ hroom
  have hcount : (s.bcnt + 1).toNat = s.bcnt.toNat + 1 := by bv_omega
  refine gives_call h.awaitingReset (exec_bpush_of_room h.flt ch hbcnt) (BlockHeld.answer ⟨h.congr, ?_, ?_⟩ 0 0)
  · simpa [h.bcnt] using hcount
  · rw [pushBlock_contents ch hbcnt, h.held]

/-- BPOP answers the words in the order they were pushed (44_sblock.md R216). -/
theorem BlockHeld.gives_bpop {ch : CharWord} (h : BlockHeld g K (ch :: B) s) :
    Gives (call .bpop s) ch (BlockHeld g K B) := by
  have hbcnt : s.bcnt.toNat = B.length + 1 := h.bcnt
  have hle : s.bcnt.toNat ≤ 4 := h.bcnt ▸ h.length_le
  have hheld : s.bcnt ≠ 0 := by bv_omega
  have hfirst : s.blk[0] = ch := by
    have hzero := congrArg (·[0]?) h.held
    simpa [List.getElem?_take, hbcnt] using hzero
  have hexec := exec_bpop_of_held h.flt hheld
  rw [hfirst] at hexec
  refine gives_call h.awaitingReset hexec (BlockHeld.answer ⟨h.congr, ?_, ?_⟩ 0 ch)
  · rw [popBlock_bcnt]
    bv_omega
  · rw [popBlock_contents hheld hle, h.held, List.tail_cons]

theorem BlockHeld.gives_bpops (h : BlockHeld g K B s) :
    Gives (callAll (List.replicate B.length .bpop) s) B (BlockHeld g K []) := by
  induction B generalizing s with
  | nil => exact gives_ok h
  | cons ch B ih => exact gives_callAll_cons h.gives_bpop fun _ ht => ih ht

theorem BlockHeld.gives_transform (h : BlockHeld g K B s) (hB : B.length = 4) {tr : Instr}
    {f : RingVal → RingVal → RingVal} (htr : exec tr s = transformBlock f s) :
    Gives (call tr s) 0 (BlockHeld g K (laneText g f B)) := by
  have hfull : s.bcnt = 4 := BitVec.eq_of_toNat_eq (h.bcnt.trans hB)
  have hblk : s.blk.toList = B := by
    rw [← h.held, h.bcnt, hB, List.take_of_length_le (by simp)]
  refine gives_call h.awaitingReset (htr.trans (transformBlock_of_full f hfull))
    (BlockHeld.answer ⟨h.congr, ?_, ?_⟩ 0 0)
  · rw [laneText_length]
    exact h.bcnt
  · rw [mapBlock_toList, hblk, h.glyphs, h.bcnt, hB, List.take_of_length_le (by rw [laneText_length, hB])]

/-! ### A text through the engine -/

section
variable {tr : Instr} {f : RingVal → RingVal → RingVal} (htr : ∀ u, KeyLoaded g K u → exec tr u = transformBlock f u)
include htr

theorem KeyLoaded.gives_runBlock (h : KeyLoaded g K s) (a b c d : CharWord) :
    Gives (runBlock tr a b c d s) (laneText g f [a, b, c, d]) (KeyLoaded g K) := by
  have hpush (u : State) (hu : BlockHeld g K [] u) : Gives (callAll ([a, b, c, d].map .bpush) u)
      (List.replicate 4 0) (BlockHeld g K [a, b, c, d]) :=
    gives_push (entryOf := id) (fun _ ch _ hroom hB => hB.gives_bpush hroom ch) [a, b, c, d] (Nat.le_refl 4) hu
  have htransform (u : State) (hu : BlockHeld g K [a, b, c, d] u) :
      Gives (callAll [tr] u) [0] (BlockHeld g K (laneText g f [a, b, c, d])) :=
    gives_callAll_singleton (hu.gives_transform rfl (htr u hu.toKeyLoaded))
  have hfill : Gives (callAll (.bclr :: ([a, b, c, d].map .bpush ++ [tr])) s) (0 :: (List.replicate 4 0 ++ [0]))
      (BlockHeld g K (laneText g f [a, b, c, d])) :=
    gives_callAll_cons h.gives_bclr fun u hu => gives_callAll_append (hpush u hu) htransform
  exact hfill.andThen fun _ hfull => hfull.gives_bpops.imp fun _ hempty => hempty.toKeyLoaded

/-- Whole blocks are transformed one after the other (R266). -/
theorem gives_runBlocks : (text : Text) → text.length % 4 = 0 → (s : State) → KeyLoaded g K s →
    Gives (runBlocks tr text s) (laneText g f text) (KeyLoaded g K)
  | [], _, _, h => gives_ok h
  | a :: b :: c :: d :: rest, hlen, _, h => by
    have hrest : rest.length % 4 = 0 := by
      simp only [List.length_cons] at hlen
      omega
    have hsplit : laneText g f (a :: b :: c :: d :: rest) = laneText g f [a, b, c, d] ++ laneText g f rest :=
      laneText_append g f (B := [a, b, c, d]) rfl rest
    rw [hsplit]
    exact (h.gives_runBlock htr a b c d).andThen fun t ht =>
      (gives_runBlocks rest hrest t ht).andThen fun _ hu => gives_ok hu
  | [_], hlen, _, _ | [_, _], hlen, _, _ | [_, _, _], hlen, _, _ => by simp at hlen

end

/-! ### The keyed transforms of a loaded key -/

/-- The key value of each place of a block (44_sblock.md R219). -/
def keyValues (K : List KeyEntry) (i : RingVal) : RingVal := (keySymbol K (i.toNat % K.length)).v

theorem KeyLoaded.blockKeyValue_eq (h : KeyLoaded g K s) (hK : K ≠ []) : blockKeyValue s = keyValues K := by
  funext i
  have hmod : i.toNat % K.length < K.length := Nat.mod_lt _ (List.length_pos_iff.2 hK)
  have hindex : (BitVec.ofNat 5 (i.toNat % K.length)).toNat = i.toNat % K.length :=
    Nat.mod_eq_of_lt (hmod.trans_le h.length_le)
  rw [blockKeyValue, h.klen, h.entry_key (hindex.symm ▸ hmod), hindex, keyValues]

section
variable (h : KeyLoaded g K s) (hK : K.length = 16)
include h hK

theorem KeyLoaded.klen_eq : s.klen = 16 := BitVec.eq_of_toNat_eq (h.klen.trans hK)

theorem KeyLoaded.exec_sbkapp_eq : exec .sbkapp s = transformBlock (forwardLane (keyValues K)) s := by
  rw [exec_sbkapp_of_ready h.flt (h.klen_eq hK), h.blockKeyValue_eq (List.ne_nil_of_length_pos (by omega))]

theorem KeyLoaded.exec_sbkinv_eq : exec .sbkinv s = transformBlock (backwardLane (keyValues K)) s := by
  rw [exec_sbkinv_of_ready h.flt (h.klen_eq hK), h.blockKeyValue_eq (List.ne_nil_of_length_pos (by omega))]

end
end

/-! ### The S-block functions -/

theorem runSBlocks_of_lengths {tr : Instr} {text key : Text} {s : State} (hkey : key.length = 16)
    (htext : text.length % 4 = 0) :
    runSBlocks tr text key s = andThen (callAll (loadKeyCommands key) s) fun _ t => runBlocks tr text t :=
  (if_neg (not_not.2 hkey)).trans (if_neg (not_not.2 htext))

/-- With both lengths right the function loads the key and transforms the blocks (R266, R267). -/
theorem gives_runSBlocks {g : GlyphTable} {text key : Text} {s : State} (h : Ready s) (hg : s.glyphs = g)
    (hkey : key.length = 16) (htext : text.length % 4 = 0) {tr : Instr} {f : RingVal → RingVal → RingVal}
    (htr : ∀ u, KeyLoaded g (key.map (classify g)) u → exec tr u = transformBlock f u) :
    Gives (runSBlocks tr text key s) (laneText g f text) (KeyLoaded g (key.map (classify g))) := by
  subst hg
  rw [runSBlocks_of_lengths hkey htext]
  exact (gives_loadKey h (by omega)).andThen fun t hfresh => gives_runBlocks htr text htext t hfresh.toKeyLoaded

/-- Settles O56: lane by lane SBKINV undoes SBKAPP with the same key values. -/
theorem sBlockCipherRoundTrips : Obligations.SBlockCipherRoundTrips := by
  intro text key s h hg hkey htext
  have hK : (key.map (classify s.glyphs)).length = 16 := (List.length_map _).trans hkey
  obtain ⟨t, ht, hend⟩ := gives_runSBlocks h rfl hkey htext fun _ hu => hu.exec_sbkapp_eq hK
  obtain ⟨u, hu, -⟩ := gives_runSBlocks hend.ready hend.glyphs hkey ((laneText_length ..).symm ▸ htext) fun _ hu =>
    hu.exec_sbkinv_eq hK
  rw [laneText_undo hg (backwardLane_forwardLane _)] at hu
  exact ⟨_, t, u, ht, laneText_length .., hend.ready, hu⟩

end Sys2Proof.Machine
end

section
/-! PROOFS. The enhanced pipeline (46_text_procedures.md R268, R269): the polyalphabetic cipher, padding, and the
S-blocks. -/

namespace Sys2Proof.Machine

/-! ### Padding and stripping (R271, R272) -/

section
variable (g : GlyphTable)

/-- Padding makes whole blocks, as few as hold the text. -/
theorem pad4_length (y : Text) : (pad4 g y).length = 4 * ((y.length + 3) / 4) := by
  simp only [pad4, Params.blockLen, List.length_append, List.length_replicate]
  omega

theorem strip_eq_rdropWhile (z : Text) : strip g z = z.rdropWhile fun c => c == fillerGlyph g := rfl

theorem strip_concat_filler (y : Text) : strip g (y ++ [fillerGlyph g]) = strip g y :=
  List.rdropWhile_concat_pos (fun c => c == fillerGlyph g) y _ (beq_self_eq_true _)

/-- Fillers at the end are stripped, however many. -/
theorem strip_append_fillers (y : Text) (n : Nat) : strip g (y ++ List.replicate n (fillerGlyph g)) = strip g y := by
  induction n with
  | zero => rw [List.replicate_zero, List.append_nil]
  | succ n ih => rw [List.replicate_succ', ← List.append_assoc, strip_concat_filler, ih]

theorem strip_pad4 (y : Text) : strip g (pad4 g y) = strip g y := strip_append_fillers g y _

theorem strip_prefix (z : Text) : strip g z <+: z := List.rdropWhile_prefix _ z

theorem strip_eq_take (z : Text) : strip g z = z.take (strip g z).length :=
  List.prefix_iff_eq_take.1 (strip_prefix g z)

/-- Stripping loses nothing exactly when the text does not end in the filler. -/
theorem strip_length_eq_iff (z : Text) : (strip g z).length = z.length ↔ z.getLast? ≠ some (fillerGlyph g) := by
  have hwhole : (strip g z).length = z.length ↔ strip g z = z :=
    ⟨(strip_prefix g z).eq_of_length, congrArg List.length⟩
  rw [hwhole, strip_eq_rdropWhile, List.rdropWhile_eq_self_iff]
  cases z using List.reverseRecOn with
  | nil => simp
  | append_singleton z ch => simp

/-- Padding adds upper-case members only. -/
theorem upperOrNonMember_pad4 {g : GlyphTable} (hg : g.Valid) {y : Text} (h : ∀ ch ∈ y, UpperOrNonMember g ch) :
    ∀ ch ∈ pad4 g y, UpperOrNonMember g ch := by
  intro ch hch
  obtain hch | hch := List.mem_append.1 hch
  · exact h ch hch
  · exact List.eq_of_mem_replicate hch ▸ upperOrNonMember_glyph hg _

end

/-! ### The procedures -/

/-- The S-block layer and its inverse give the padded text back (44_sblock.md R221). -/
theorem strip_laneText_pad4 {g : GlyphTable} (hg : g.Valid) {y : Text} (h : ∀ ch ∈ y, UpperOrNonMember g ch) :
    strip g (laneText g (backwardLane noKeyValue) (laneText g (forwardLane noKeyValue) (pad4 g y))) = strip g y := by
  have hupper : (pad4 g y).map (upperCase g) = pad4 g y :=
    (List.map_congr_left fun ch hch => upperCase_of_upperOrNonMember (upperOrNonMember_pad4 hg h ch hch)).trans
      (List.map_id _)
  rw [laneText_undo hg (backwardLane_forwardLane _), hupper, strip_pad4]

/-- What stripping leaves of the polyalphabetic ciphertext decrypts to as many first characters of
the text. -/
theorem PolyConfig.cipher_undo_strip {c : PolyConfig} (hg : c.glyphs.Valid) {text : Text}
    (htext : ∀ ch ∈ text, UpperOrNonMember c.glyphs ch) :
    c.cipher (· - ·) (strip c.glyphs (c.cipher (· + ·) text)) =
      text.take (strip c.glyphs (c.cipher (· + ·) text)).length := by
  conv_lhs => rw [strip_eq_take, cipher_take]
  exact cipher_undo hg fun ch hch => htext ch (List.mem_of_mem_take hch)

section
variable {g : GlyphTable} {key text : Text} {s : State} (hlen : key.length ≤ 32)
  (hmembers : ∀ ch ∈ key, (classify g ch).m = true)
include hlen hmembers

theorem gives_encryptEnhanced (h : Ready s) (hg : s.glyphs = g) :
    Gives (encryptEnhanced text key s)
      (laneText g (forwardLane noKeyValue) (pad4 g ((polyConfig g key 8).cipher (· + ·) text)))
      (KeyLoaded g (polyConfig g key 8).key) := by
  subst hg
  have hwhole : (pad4 s.glyphs ((polyConfig s.glyphs key 8).cipher (· + ·) text)).length % 4 = 0 := by
    rw [pad4_length, Nat.mul_mod_right]
  exact (gives_encryptPolyalphabetic h rfl hlen hmembers text 8).andThen fun t hend =>
    gives_runBlocks (fun _ hu => exec_sbapp hu.flt) _ hwhole t hend.toKeyLoaded

theorem gives_decryptEnhanced {K : List KeyEntry} (h : KeyLoaded g K s) (htext : text.length % 4 = 0) :
    Gives (decryptEnhanced text key s)
      ((polyConfig g key 8).cipher (· - ·) (strip g (laneText g (backwardLane noKeyValue) text)))
      (KeyLoaded g (polyConfig g key 8).key) := by
  have hchecked : decryptEnhanced text key s =
      andThen (runBlocks .sbinv text s) fun z t => decryptPolyalphabetic (strip g z) key 8 t :=
    h.glyphs ▸ if_neg (not_not.2 htext)
  rw [hchecked]
  exact (gives_runBlocks (fun _ hu => exec_sbinv hu.flt) text htext s h).andThen fun _ ht =>
    (gives_decryptPolyalphabetic ht.ready ht.glyphs hlen hmembers _ 8).imp fun _ hend => hend.toKeyLoaded

end

/-- Settles O58: the S-block layer is undone, and what is left of the polyalphabetic ciphertext after stripping decrypts
to the first characters of the text. -/
theorem enhancedPipelineRoundTrips : Obligations.EnhancedPipelineRoundTrips := by
  intro text key s h hg hlen hmembers htext
  have hmid : ((polyConfig s.glyphs key 8).cipher (· + ·) text).length = text.length := PolyConfig.cipher_length text
  have hupper : ∀ ch ∈ (polyConfig s.glyphs key 8).cipher (· + ·) text, UpperOrNonMember s.glyphs ch :=
    PolyConfig.upperOrNonMember_cipher hg htext
  have hprefix := PolyConfig.cipher_undo_strip (c := polyConfig s.glyphs key 8) hg htext
  obtain ⟨v, hv, -⟩ := gives_encryptPolyalphabetic h rfl hlen hmembers text 8
  obtain ⟨t, ht, hend⟩ := gives_encryptEnhanced (text := text) hlen hmembers h rfl
  obtain ⟨u, hu, -⟩ := gives_decryptEnhanced hlen hmembers hend
    (text := laneText s.glyphs (forwardLane noKeyValue)
      (pad4 s.glyphs ((polyConfig s.glyphs key 8).cipher (· + ·) text)))
    (by rw [laneText_length, pad4_length, Nat.mul_mod_right])
  rw [strip_laneText_pad4 hg hupper] at hu
  refine ⟨_, _, _, v, t, u, hv, ht, ?_, hu.trans (by rw [← hprefix]; rfl), ?_, ?_⟩
  · rw [laneText_length, pad4_length, hmid]
  · exact hmid ▸ (strip_prefix _ _).length_le
  · rw [← hmid]
    exact strip_length_eq_iff _ _

end Sys2Proof.Machine
end

section
/-! PROOFS. The errors (60_exceptions.md R280 to R289): what an error changes, which errors a command has, what clears
the sticky registers, and the fault state. -/

namespace Sys2Proof.Machine

/-! ### How a command answers -/

theorem Ends.imp {E : List Err} {Q R : State → Prop} {s : State} {k : Result} (h : Ends E Q s k)
    (hQR : ∀ u, Q u → R u) : Ends E R s k := by
  cases h with
  | faulted hf => exact .faulted hf
  | raised he hne hf => exact .raised he hne hf
  | fatal he hf => exact .fatal he hf
  | responded r hu => exact .responded r (hQR _ hu)

/-- SRESET, which keeps no frame, too answers once, and with no error. -/
theorem exec_answers_once (i : Instr) (s : State) :
    Ends (ownErrors i) (fun u => u.responses = s.responses) s (exec i s) := by
  by_cases hi : i = .sreset
  · subst hi
    exact .responded 0 rfl
  · exact (exec_ends hi s).imp fun _ hu => hu.responses

theorem acceptCommand_answers_once (w : CmdWord) (s : State) :
    ∃ E, Ends E (fun u => u.responses = s.responses) s (acceptCommand w s) := by
  obtain ⟨i, hw⟩ | hw := acceptCommand_cases w s <;> rw [hw]
  · exact ⟨_, exec_answers_once i s⟩
  · exact ⟨[.illop], ends_rejectIllegal (by decide)⟩

section
variable {E : List Err} {s t : State} {r : Response} (h : Ends E (fun u => u.responses = s.responses) s (.next t))
  (hf : s.flt = false) (hr : t.responses = s.responses ++ [r])
include h hf hr

/-- Outside the fault state the response tells a success from an error, and an error from the others; the error changes
the error registers alone (60_exceptions.md R283, R288). -/
theorem Ends.response_cases :
    r.e = 0 ∨ ∃ e ∈ E, r = ⟨errCode e, 0⟩ ∧
      t = answer (errCode e) 0 (recordError e { s with flt := decide (errCode e = 15) }) := by
  cases h with
  | faulted hfault => simp [hf] at hfault
  | @raised e he hne _ =>
    have hflt : decide (errCode e = 15) = s.flt := (decide_eq_false (errCode_ne_fatal hne)).trans hf.symm
    exact .inr ⟨e, he, by simpa using hr.symm, by rw [hflt]⟩
  | fatal he _ => exact .inr ⟨.fatal, he, by simpa [errCode] using hr.symm, rfl⟩
  | responded r' hu =>
    have hresponse : r = ⟨0, r'⟩ := by simpa [hu] using hr.symm
    exact .inl (congrArg Response.e hresponse)

theorem Ends.error_state (hne : r.e ≠ 0) :
    r.r = 0 ∧ t = { s with
      flt := decide (r.e = 15), estk := true, elast := r.e, responses := s.responses ++ [⟨r.e, 0⟩] } := by
  obtain hok | ⟨e, -, rfl, ht⟩ := h.response_cases hf hr
  · exact absurd hok hne
  · exact ⟨rfl, ht⟩

end

/-- Settles O17: an illegal word ends as a command does, by `acceptCommand_answers_once`. -/
theorem errorsChangeOnlyTheErrorRegisters : Obligations.ErrorsChangeOnlyTheErrorRegisters := by
  refine ⟨fun i s t r hf h hr hne => ?_, fun s t w rest r hi ha hf h hr hne => ?_⟩
  · have hends := h ▸ exec_answers_once i s
    exact hends.error_state hf hr hne
  · obtain ⟨E, hends⟩ := acceptCommand_answers_once w { s with inputs := rest }
    rw [← step_command hi ha, h] at hends
    exact hends.error_state hf hr hne

/-- Settles O18. -/
theorem eachCommandAnswersOnlyItsErrors : Obligations.EachCommandAnswersOnlyItsErrors := by
  intro i s t r hf h hr
  have hends := h ▸ exec_answers_once i s
  exact (hends.response_cases hf hr).imp_right fun ⟨e, he, hresponse, _⟩ => ⟨e, he, congrArg Response.e hresponse⟩

/-- Settles O19: a success keeps its frame, in which only CLRE writes the sticky registers. -/
theorem errorRegistersAreSticky : Obligations.ErrorRegistersAreSticky := by
  rintro i s t ⟨e, r⟩ h hr rfl hclre hsreset
  have hends := h ▸ exec_ends hsreset s
  obtain ⟨r', u, hu, rfl⟩ := hends.of_success hr
  exact hu.errors.resolve_right fun ⟨hi, _⟩ => hclre hi

/-! ### The fault state (60_exceptions.md R289) -/

/-- Every command but SRESET and RDCR begins with the fault-state check (30_encoding.md R102). -/
theorem exec_of_faulted {i : Instr} {s : State} (hf : s.flt = true) (hsreset : i ≠ .sreset)
    (hrdcr : ∀ n, i ≠ .rdcr n) : exec i s = .next (answer 15 0 s) := by
  cases i with
  | sreset => exact absurd rfl hsreset
  | rdcr n => exact absurd rfl (hrdcr n)
  | _ => exact unlessFaulted_of_faulted hf _

/-- `CR0` of an engine in the fault state, by the four values of the two valid bits. -/
theorem cr0_of_faulted {s : State} (hf : s.flt = true) (hestk : s.estk = true) (helast : s.elast = 15) :
    cr0 s = 0x00FC ||| BitVec.setWidth 16 (BitVec.ofBool s.kav) |||
      (BitVec.setWidth 16 (BitVec.ofBool s.ttv) <<< 1) := by
  rw [cr0, hf, hestk, helast]
  cases s.kav <;> cases s.ttv <;> rfl

theorem exec_clears_fault_iff {i : Instr} {s t : State} (hf : s.flt = true) (h : exec i s = .next t) :
    t.flt = false ↔ i = .sreset := by
  constructor
  · intro hclear
    by_contra hi
    simp [exec_keeps_fault hi h hf] at hclear
  · rintro rfl
    obtain rfl := respond_eq_next.1 h
    rfl

/-- The fault state is entered by the fatal error alone, which sets the error registers (60_exceptions.md R288). -/
theorem exec_enters_fault {i : Instr} {s t : State} (hf : s.flt = false) (h : exec i s = .next t)
    (hfault : t.flt = true) : t.estk = true ∧ t.elast = 15 := by
  by_cases hi : i = .sreset
  · subst hi
    obtain rfl := respond_eq_next.1 h
    simp at hfault
  · have hends := h ▸ exec_ends hi s
    cases hends with
    | faulted => simp [hf] at hfault
    | raised => simp [hf] at hfault
    | fatal => exact ⟨rfl, rfl⟩
    | responded _ hu => simp [hu.flt, hf] at hfault

theorem acceptCommand_clears_fault_iff {w : CmdWord} {s t : State} (hf : s.flt = true)
    (h : acceptCommand w s = .next t) : t.flt = false ↔ decode w = some .sreset := by
  cases hw : decode w with
  | some i =>
    rw [Option.some_inj]
    exact exec_clears_fault_iff hf ((acceptCommand_of_decode hw s).symm.trans h)
  | none =>
    rw [acceptCommand_of_illegal hw, rejectIllegal_eq, if_pos hf] at h
    cases h
    simp [hf]

/-- With the power kept, `rst` and SRESET are the only steps out of the fault state. -/
theorem step_clears_fault_iff {s t : State} (hf : s.flt = true) (ha : s.awaitingReset = false)
    (hpower : ∀ rest, s.inputs ≠ .powerOn :: rest) (h : step s = .next t) :
    t.flt = false ↔ (∃ rest, s.inputs = .rst :: rest) ∨
      ∃ w rest, s.inputs = .command w :: rest ∧ decode w = some .sreset := by
  obtain ⟨hi, rfl⟩ | ⟨rest, hi, rfl⟩ | ⟨rest, hi, -⟩ | ⟨w, rest, -, hawait, -⟩ | ⟨w, rest, hi, -, hw⟩ := step_cases h
  · simp [hi, hf]
  · simp [hi]
  · exact absurd hi (hpower rest)
  · simp [ha] at hawait
  · rw [acceptCommand_clears_fault_iff (s := { s with inputs := rest }) hf hw]
    simp [hi]

/-- Settles O16. -/
theorem faultStateRefusesCommands : Obligations.FaultStateRefusesCommands := by
  refine ⟨fun i s => exec_of_faulted, fun s w rest hi ha hf hw => ?_, fun n s _ => exec_rdcr n s,
    fun s => cr0_of_faulted, fun i s t => exec_clears_fault_iff, fun i s t => exec_enters_fault,
    fun s t => step_clears_fault_iff⟩
  rw [step_command hi ha, acceptCommand_of_illegal hw, rejectIllegal_eq]
  exact congrArg _ (if_pos hf)

end Sys2Proof.Machine
end

section
/-! PROOFS. Power-on and the first reset (70_reset_and_hazards.md R320, 93_implementation_defined.md U4). -/

namespace Sys2Proof.Machine

theorem HasResetValues.answer {s : State} (h : HasResetValues s) (e : BitVec 4) (r : CharWord) :
    HasResetValues (answer e r s) := { h with }

/-- Settles O9, by the oldest input: power, a word that is not SRESET, SRESET, and `rst`. -/
theorem commandsBeforeTheFirstResetAreRefused : Obligations.CommandsBeforeTheFirstResetAreRefused := by
  refine ⟨fun s rest hi => ?power, fun s w rest => step_before_reset, fun s w rest hi _ hw => ?sreset,
    fun s rest hi => ?rst⟩
  case power => exact ⟨_, step_powerOn hi, applyPower_awaitingReset _, applyPower_inputs _, applyPower_responses _⟩
  case sreset => exact ⟨_, step_first_sreset hi hw, (resetEngine_hasResetValues _).answer 0 0, rfl, rfl, rfl⟩
  case rst => exact ⟨_, step_rst hi, resetEngine_awaitingReset _⟩

end Sys2Proof.Machine
end
